-- ==== Sys2Proof/Word.lean ====
section
/-! DEFINITION. The word types of the block (00_scope.md rules R11 and R13). Everything is unsigned. -/

namespace Sys2Proof

/-- A step label: one 32-bit word (R80, decision D1). -/
abbrev Word := BitVec 32

/-- A sample, and the width of every length and of the host read-data register (R11). -/
abbrev Sample := BitVec 16

/-- An 8-bit field: OPC and SEL of a label, the small calendar fields, the fault code. -/
abbrev Byte := BitVec 8

end Sys2Proof
end

