-- ==== Sys2Proof/Syntax.lean ====
section
/-! DEFINITION. The operand sets of 00_scope.md rule R17 and the instruction set: the sixteen step labels of
30_encoding.md rule R83, one constructor a row of spec/opcode_table.json. -/

namespace Sys2Proof

/-- Buffer channels, in the order of R17. -/
inductive Channel where
  | depth | bat | x | y
deriving DecidableEq, Repr

/-- The two channels that have a single-channel trigger (R84, R200). -/
inductive TrigChannel where
  | depth | bat
deriving DecidableEq, Repr

/-- The two period classifiers (R17). -/
inductive Classifier where
  | water | net
deriving DecidableEq, Repr

/-- The three raw pins (R17). -/
inductive Pin where
  | wps | net | aux
deriving DecidableEq, Repr

/-- The output flags the host may clear (R17, R237). -/
inductive Flag where
  | midnight | water | net
deriving DecidableEq, Repr

/-- The seven event sources (R17, R261). -/
inductive Source where
  | pc | ft | st | bt | dt | bc | dc
deriving DecidableEq, Repr

/-- The six fields of a calendar time (R17, R32). -/
inductive CalField where
  | year | month | day | hour | minute | second
deriving DecidableEq, Repr

/-- Which calendar latch HC_READ_CALENDAR reads (R235). -/
inductive Snapshot where
  | prev | cur
deriving DecidableEq, Repr

/-- The step labels (R83). The comment of a constructor names its mnemonic and its rule. -/
inductive Instr where
  /-- EV_PIN_LEVEL (R156): the environment drives a raw pin. -/
  | evPinLevel (p : Pin) (level : Bool)
  /-- EV_PIN_CHANGE (R157): a spurious pin-change notification. -/
  | evPinChange
  /-- EV_TIMER_TICK (R136): one count pulse of a classifier's timer. -/
  | evTimerTick (k : Classifier)
  /-- EV_FAST_TICK (R194). -/
  | evFastTick
  /-- EV_SECOND_TICK (R174). -/
  | evSecondTick
  /-- EV_RTC_SET (R175): one field of the clock's port. -/
  | evRtcSet (fld : CalField) (value : BitVec 16)
  /-- EV_TRIGGER_TICK (R201). -/
  | evTriggerTick (c : TrigChannel)
  /-- EV_AFE_DONE (R195): the conversion in flight completes. -/
  | evAfeDone (result : Sample)
  /-- DISPATCH (R264): run the handler of a pending source. -/
  | dispatch (src : Source)
  /-- HC_READ_SAMPLE (R231). -/
  | hcReadSample (ch : Channel) (index : BitVec 16)
  /-- HC_READ_LENGTH (R232). -/
  | hcReadLength (ch : Channel)
  /-- HC_READ_CAPACITY (R233). -/
  | hcReadCapacity (ch : Channel)
  /-- HC_READ_STATUS (R234). -/
  | hcReadStatus
  /-- HC_READ_CALENDAR (R235). -/
  | hcReadCalendar (snap : Snapshot) (fld : CalField)
  /-- HC_RESET_BUFFER (R236). -/
  | hcResetBuffer (ch : Channel)
  /-- HC_CLEAR_FLAG (R237). -/
  | hcClearFlag (f : Flag)
deriving DecidableEq, Repr

end Sys2Proof
end

