-- ==== Sys2Proof/WellFormed.lean ====
section
/-! DEFINITION. Which terms of `Instr` stand for a label. The operand types admit only the selector codes rule R86
admits; the one condition left to check is the width of EV_RTC_SET's value. -/

namespace Sys2Proof

/-- EV_RTC_SET carries 16 bits for YEAR and 8 bits, with DATA[15:8] = 0, for every other field (R85, R86). -/
def rtcValueFits (fld : CalField) (value : BitVec 16) : Bool :=
  decide (fld = .year) || decide (value.toNat < 256)

/-- A term that some label word stands for (R86). -/
def Instr.wf : Instr → Bool
  | .evPinLevel _ _ => true
  | .evPinChange => true
  | .evTimerTick _ => true
  | .evFastTick => true
  | .evSecondTick => true
  | .evRtcSet fld value => rtcValueFits fld value
  | .evTriggerTick _ => true
  | .evAfeDone _ => true
  | .dispatch _ => true
  | .hcReadSample _ _ => true
  | .hcReadLength _ => true
  | .hcReadCapacity _ => true
  | .hcReadStatus => true
  | .hcReadCalendar _ _ => true
  | .hcResetBuffer _ => true
  | .hcClearFlag _ => true

end Sys2Proof
end

