-- ==== Sys2Proof/Decode.lean ====
section
/-! DEFINITION. Decoding and encoding of step labels (30_encoding.md). The selector codes of rule R17, the opcode map
of R83, the well-formedness rule R86 transcribed, a decoder that rejects by name, and the encoder. -/

namespace Sys2Proof

/-! ### The codes of R17, each with its partial inverse -/

def Channel.code : Channel → Byte
  | .depth => 0
  | .bat => 1
  | .x => 2
  | .y => 3

def channelOfCode (sel : Byte) : Option Channel :=
  match sel.toNat with
  | 0 => some .depth
  | 1 => some .bat
  | 2 => some .x
  | 3 => some .y
  | _ => none

/-- A trigger's selector is the buffer channel's code: 0 = DEPTH, 1 = BAT (R84). -/
def TrigChannel.code : TrigChannel → Byte
  | .depth => 0
  | .bat => 1

def trigChannelOfCode (sel : Byte) : Option TrigChannel :=
  match sel.toNat with
  | 0 => some .depth
  | 1 => some .bat
  | _ => none

def Classifier.code : Classifier → Byte
  | .water => 0
  | .net => 1

def classifierOfCode (sel : Byte) : Option Classifier :=
  match sel.toNat with
  | 0 => some .water
  | 1 => some .net
  | _ => none

def Pin.code : Pin → Byte
  | .wps => 0
  | .net => 1
  | .aux => 2

def pinOfCode (sel : Byte) : Option Pin :=
  match sel.toNat with
  | 0 => some .wps
  | 1 => some .net
  | 2 => some .aux
  | _ => none

def Flag.code : Flag → Byte
  | .midnight => 0
  | .water => 1
  | .net => 2

def flagOfCode (sel : Byte) : Option Flag :=
  match sel.toNat with
  | 0 => some .midnight
  | 1 => some .water
  | 2 => some .net
  | _ => none

def Source.code : Source → Byte
  | .pc => 0
  | .ft => 1
  | .st => 2
  | .bt => 3
  | .dt => 4
  | .bc => 5
  | .dc => 6

def sourceOfCode (sel : Byte) : Option Source :=
  match sel.toNat with
  | 0 => some .pc
  | 1 => some .ft
  | 2 => some .st
  | 3 => some .bt
  | 4 => some .dt
  | 5 => some .bc
  | 6 => some .dc
  | _ => none

def CalField.code : CalField → Byte
  | .year => 0
  | .month => 1
  | .day => 2
  | .hour => 3
  | .minute => 4
  | .second => 5

def calFieldOfCode (sel : Byte) : Option CalField :=
  match sel.toNat with
  | 0 => some .year
  | 1 => some .month
  | 2 => some .day
  | 3 => some .hour
  | 4 => some .minute
  | 5 => some .second
  | _ => none

/-- HC_READ_CALENDAR's selector: SEL[3] is the latch, SEL[2:0] the field, SEL[7:4] = 0 (R84, R235). -/
def calSelCode (snap : Snapshot) (fld : CalField) : Byte :=
  match snap with
  | .prev => fld.code
  | .cur => 8#8 ||| fld.code

def calSelOfCode (sel : Byte) : Option (Snapshot × CalField) :=
  if sel.extractLsb' 4 4 = 0#4 then
    (calFieldOfCode (sel &&& 7#8)).map fun fld => (bif sel.getLsbD 3 then .cur else .prev, fld)
  else none

/-! ### The label format of R80 -/

def opcOf (w : Word) : Byte := w.extractLsb' 24 8

def selOf (w : Word) : Byte := w.extractLsb' 16 8

def dataOf (w : Word) : BitVec 16 := w.extractLsb' 0 16

def mkLabel (opc sel : Byte) (data : BitVec 16) : Word := (opc ++ sel) ++ data

/-- Rule R86's `wf(w)`, read off the rule's own case table. -/
def wfWord (w : Word) : Bool :=
  let sel := (selOf w).toNat
  let data := (dataOf w).toNat
  match (opcOf w).toNat with
  | 0x01 => decide (sel ≤ 2) && decide ((dataOf w).extractLsb' 1 15 = 0#15)
  | 0x02 => decide (sel = 0) && decide (data = 0)
  | 0x03 => decide (sel ≤ 1) && decide (data = 0)
  | 0x04 => decide (sel = 0) && decide (data = 0)
  | 0x05 => decide (sel = 0) && decide (data = 0)
  | 0x06 => decide (sel ≤ 5) && (decide (sel = 0) || decide ((dataOf w).extractLsb' 8 8 = 0#8))
  | 0x07 => decide (sel ≤ 1) && decide (data = 0)
  | 0x08 => decide (sel = 0)
  | 0x20 => decide (sel ≤ 6) && decide (data = 0)
  | 0x40 => decide (sel ≤ 3)
  | 0x41 => decide (sel ≤ 3) && decide (data = 0)
  | 0x42 => decide (sel ≤ 3) && decide (data = 0)
  | 0x43 => decide (sel = 0) && decide (data = 0)
  | 0x44 => decide ((selOf w).extractLsb' 4 4 = 0#4) && decide (((selOf w).extractLsb' 0 3).toNat ≤ 5) && decide (data = 0)
  | 0x45 => decide (sel ≤ 3) && decide (data = 0)
  | 0x46 => decide (sel ≤ 2) && decide (data = 0)
  | _ => false

/-! ### The opcode map of R83 -/

/-- The sixteen operation codes. -/
inductive Opc where
  | evPinLevel | evPinChange | evTimerTick | evFastTick | evSecondTick | evRtcSet | evTriggerTick | evAfeDone
  | dispatch
  | hcReadSample | hcReadLength | hcReadCapacity | hcReadStatus | hcReadCalendar | hcResetBuffer | hcClearFlag
deriving DecidableEq, Repr

def Opc.code : Opc → Byte
  | .evPinLevel => 0x01
  | .evPinChange => 0x02
  | .evTimerTick => 0x03
  | .evFastTick => 0x04
  | .evSecondTick => 0x05
  | .evRtcSet => 0x06
  | .evTriggerTick => 0x07
  | .evAfeDone => 0x08
  | .dispatch => 0x20
  | .hcReadSample => 0x40
  | .hcReadLength => 0x41
  | .hcReadCapacity => 0x42
  | .hcReadStatus => 0x43
  | .hcReadCalendar => 0x44
  | .hcResetBuffer => 0x45
  | .hcClearFlag => 0x46

def opcOfCode (b : Byte) : Option Opc :=
  match b.toNat with
  | 0x01 => some .evPinLevel
  | 0x02 => some .evPinChange
  | 0x03 => some .evTimerTick
  | 0x04 => some .evFastTick
  | 0x05 => some .evSecondTick
  | 0x06 => some .evRtcSet
  | 0x07 => some .evTriggerTick
  | 0x08 => some .evAfeDone
  | 0x20 => some .dispatch
  | 0x40 => some .hcReadSample
  | 0x41 => some .hcReadLength
  | 0x42 => some .hcReadCapacity
  | 0x43 => some .hcReadStatus
  | 0x44 => some .hcReadCalendar
  | 0x45 => some .hcResetBuffer
  | 0x46 => some .hcClearFlag
  | _ => none

/-- Who issues a label (R81, R286). -/
inductive LabelClass where
  | env | int | host
deriving DecidableEq, Repr

/-- The class of an operation code: ENV 0x01-0x08, INT 0x20, HOST 0x40-0x46 (R81, R83). -/
def Opc.labelClass : Opc → LabelClass
  | .evPinLevel | .evPinChange | .evTimerTick | .evFastTick => .env
  | .evSecondTick | .evRtcSet | .evTriggerTick | .evAfeDone => .env
  | .dispatch => .int
  | .hcReadSample | .hcReadLength | .hcReadCapacity | .hcReadStatus => .host
  | .hcReadCalendar | .hcResetBuffer | .hcClearFlag => .host

/-! ### Decoding -/

/-- Why a word is no label. All three are ILLEGAL_OP (R87, R88). -/
inductive Reject where
  /-- OPC is not in the opcode map (R88). -/
  | reservedOpcode
  /-- SEL is no code of the operand set its OPC names (R84, R86). -/
  | badSelector
  /-- DATA has a bit its OPC reserves (R85, R86). -/
  | badData
deriving DecidableEq, Repr

/-- A label whose DATA must be 0 (R85). -/
def noData (data : BitVec 16) (i : Instr) : Except Reject Instr :=
  if data = 0#16 then .ok i else .error .badData

/-- A selector looked up in its operand set, then the rest of the label. -/
def withSel {α : Type} (o : Option α) (f : α → Except Reject Instr) : Except Reject Instr :=
  match o with
  | some a => f a
  | none => .error .badSelector

/-- A label that takes no selector: SEL must be 0. -/
def noSel (sel : Byte) (r : Except Reject Instr) : Except Reject Instr :=
  if sel = 0#8 then r else .error .badSelector

/-- The operands of a label with a known operation code (R84, R85, R86). -/
def decodeOperands (op : Opc) (sel : Byte) (data : BitVec 16) : Except Reject Instr :=
  match op with
  | .evPinLevel => withSel (pinOfCode sel) fun p =>
      if data.extractLsb' 1 15 = 0#15 then .ok (.evPinLevel p (data.getLsbD 0)) else .error .badData
  | .evPinChange => noSel sel (noData data .evPinChange)
  | .evTimerTick => withSel (classifierOfCode sel) fun k => noData data (.evTimerTick k)
  | .evFastTick => noSel sel (noData data .evFastTick)
  | .evSecondTick => noSel sel (noData data .evSecondTick)
  | .evRtcSet => withSel (calFieldOfCode sel) fun fld =>
      if rtcValueFits fld data then .ok (.evRtcSet fld data) else .error .badData
  | .evTriggerTick => withSel (trigChannelOfCode sel) fun c => noData data (.evTriggerTick c)
  | .evAfeDone => noSel sel (.ok (.evAfeDone data))
  | .dispatch => withSel (sourceOfCode sel) fun s => noData data (.dispatch s)
  | .hcReadSample => withSel (channelOfCode sel) fun ch => .ok (.hcReadSample ch data)
  | .hcReadLength => withSel (channelOfCode sel) fun ch => noData data (.hcReadLength ch)
  | .hcReadCapacity => withSel (channelOfCode sel) fun ch => noData data (.hcReadCapacity ch)
  | .hcReadStatus => noSel sel (noData data .hcReadStatus)
  | .hcReadCalendar => withSel (calSelOfCode sel) fun sf => noData data (.hcReadCalendar sf.1 sf.2)
  | .hcResetBuffer => withSel (channelOfCode sel) fun ch => noData data (.hcResetBuffer ch)
  | .hcClearFlag => withSel (flagOfCode sel) fun f => noData data (.hcClearFlag f)

/-- The decoder: total on every word, rejecting by name. One word a label, no modes, no other lengths (R90). -/
def decode (w : Word) : Except Reject Instr :=
  match opcOfCode (opcOf w) with
  | some op => decodeOperands op (selOf w) (dataOf w)
  | none => .error .reservedOpcode

/-! ### Encoding -/

def Instr.opc : Instr → Opc
  | .evPinLevel _ _ => .evPinLevel
  | .evPinChange => .evPinChange
  | .evTimerTick _ => .evTimerTick
  | .evFastTick => .evFastTick
  | .evSecondTick => .evSecondTick
  | .evRtcSet _ _ => .evRtcSet
  | .evTriggerTick _ => .evTriggerTick
  | .evAfeDone _ => .evAfeDone
  | .dispatch _ => .dispatch
  | .hcReadSample _ _ => .hcReadSample
  | .hcReadLength _ => .hcReadLength
  | .hcReadCapacity _ => .hcReadCapacity
  | .hcReadStatus => .hcReadStatus
  | .hcReadCalendar _ _ => .hcReadCalendar
  | .hcResetBuffer _ => .hcResetBuffer
  | .hcClearFlag _ => .hcClearFlag

/-- The SEL field of an instruction's label (R83, R84). -/
def Instr.sel : Instr → Byte
  | .evPinLevel p _ => p.code
  | .evPinChange => 0
  | .evTimerTick k => k.code
  | .evFastTick => 0
  | .evSecondTick => 0
  | .evRtcSet fld _ => fld.code
  | .evTriggerTick c => c.code
  | .evAfeDone _ => 0
  | .dispatch s => s.code
  | .hcReadSample ch _ => ch.code
  | .hcReadLength ch => ch.code
  | .hcReadCapacity ch => ch.code
  | .hcReadStatus => 0
  | .hcReadCalendar snap fld => calSelCode snap fld
  | .hcResetBuffer ch => ch.code
  | .hcClearFlag f => f.code

/-- The DATA field of an instruction's label (R83, R85). -/
def Instr.data : Instr → BitVec 16
  | .evPinLevel _ level => bif level then 1 else 0
  | .evPinChange => 0
  | .evTimerTick _ => 0
  | .evFastTick => 0
  | .evSecondTick => 0
  | .evRtcSet _ value => value
  | .evTriggerTick _ => 0
  | .evAfeDone result => result
  | .dispatch _ => 0
  | .hcReadSample _ index => index
  | .hcReadLength _ => 0
  | .hcReadCapacity _ => 0
  | .hcReadStatus => 0
  | .hcReadCalendar _ _ => 0
  | .hcResetBuffer _ => 0
  | .hcClearFlag _ => 0

/-- The label word of an instruction: OPC·2^24 + SEL·2^16 + DATA (R80, R93). -/
def encode (i : Instr) : Word := mkLabel i.opc.code i.sel i.data

/-- The class of an instruction's label (R81). -/
def Instr.labelClass (i : Instr) : LabelClass := i.opc.labelClass

/-- The instruction read from an instruction whose bits are `w`: its low `nbits` bits, every bit above them 0, as
one 32-bit label. -/
def decodeTableWord (nbits w : Nat) : Option Instr :=
  match decode (BitVec.ofNat 32 (w % 2 ^ nbits)) with
  | .ok i => some i
  | .error _ => none

/-- The file convention of R63: words stored as bytes, least-significant byte first. Not block behaviour; `none`
where the bytes are no whole number of words. -/
def labelsOfBytes : List Byte → Option (List Word)
  | [] => some []
  | b0 :: b1 :: b2 :: b3 :: rest => (labelsOfBytes rest).map fun ws => (((b3 ++ b2) ++ b1) ++ b0) :: ws
  | _ => none

end Sys2Proof
end

