-- ==== Sys2Proof/Config.lean ====
section
/-! DEFINITION. The implementation parameters of 00_scope.md rule R10 as one record of plain data, and the small
record types (one named field for each member of an operand set) that parameters and state share. Every parameter
the spec leaves OPEN is a field: the model takes the record as an argument, inside its state. -/

namespace Sys2Proof

/-- One value for each buffer channel. -/
structure ByChannel (α : Type) where
  depth : α
  bat : α
  x : α
  y : α
deriving DecidableEq, Repr

/-- One value for each classifier. -/
structure ByClassifier (α : Type) where
  water : α
  net : α
deriving DecidableEq, Repr

/-- One value for each raw pin. -/
structure ByPin (α : Type) where
  wps : α
  net : α
  aux : α
deriving DecidableEq, Repr

/-- One value for each channel with a single-channel trigger. -/
structure ByTrigger (α : Type) where
  depth : α
  bat : α
deriving DecidableEq, Repr

/-- One value for each event source. -/
structure BySource (α : Type) where
  pc : α
  ft : α
  st : α
  bt : α
  dt : α
  bc : α
  dc : α
deriving DecidableEq, Repr

/-- A calendar time: six unsigned fields, held verbatim and never range-checked (R32). -/
structure CalTime where
  year : BitVec 16
  month : Byte
  day : Byte
  hour : Byte
  minute : Byte
  second : Byte
deriving DecidableEq, Repr

/-- The analog front-end's reference selection (R17, R39). -/
inductive AfeRef where
  | refDefault | refHigh
deriving DecidableEq, Repr

def ByChannel.get {α : Type} (b : ByChannel α) : Channel → α
  | .depth => b.depth
  | .bat => b.bat
  | .x => b.x
  | .y => b.y

def ByChannel.set {α : Type} (b : ByChannel α) (ch : Channel) (v : α) : ByChannel α :=
  match ch with
  | .depth => { b with depth := v }
  | .bat => { b with bat := v }
  | .x => { b with x := v }
  | .y => { b with y := v }

def ByClassifier.get {α : Type} (b : ByClassifier α) : Classifier → α
  | .water => b.water
  | .net => b.net

def ByClassifier.set {α : Type} (b : ByClassifier α) (k : Classifier) (v : α) : ByClassifier α :=
  match k with
  | .water => { b with water := v }
  | .net => { b with net := v }

def ByPin.get {α : Type} (b : ByPin α) : Pin → α
  | .wps => b.wps
  | .net => b.net
  | .aux => b.aux

def ByPin.set {α : Type} (b : ByPin α) (p : Pin) (v : α) : ByPin α :=
  match p with
  | .wps => { b with wps := v }
  | .net => { b with net := v }
  | .aux => { b with aux := v }

def ByTrigger.get {α : Type} (b : ByTrigger α) : TrigChannel → α
  | .depth => b.depth
  | .bat => b.bat

def ByTrigger.set {α : Type} (b : ByTrigger α) (c : TrigChannel) (v : α) : ByTrigger α :=
  match c with
  | .depth => { b with depth := v }
  | .bat => { b with bat := v }

def BySource.get {α : Type} (b : BySource α) : Source → α
  | .pc => b.pc
  | .ft => b.ft
  | .st => b.st
  | .bt => b.bt
  | .dt => b.dt
  | .bc => b.bc
  | .dc => b.dc

def BySource.set {α : Type} (b : BySource α) (s : Source) (v : α) : BySource α :=
  match s with
  | .pc => { b with pc := v }
  | .ft => { b with ft := v }
  | .st => { b with st := v }
  | .bt => { b with bt := v }
  | .dt => { b with dt := v }
  | .bc => { b with bc := v }
  | .dc => { b with dc := v }

/-- The parameters of R10, and HOST_PORT_BINDING of R62 (D25), the one OPEN parameter outside R10's table. -/
structure Config where
  /-- CAP[ch], 1 to 65535 (D3). -/
  cap : ByChannel Nat
  /-- W_T, the width in bits of the elapsed-tick counters, 1 to 32 (D5). -/
  wT : Nat
  /-- LO[k], inclusive, a W_T-bit value (D4). -/
  lo : ByClassifier Nat
  /-- HI[k], inclusive, a W_T-bit value; LO[k] > HI[k] is allowed (D4). -/
  hi : ByClassifier Nat
  /-- PRIO[s], with PRIO[PC] the lowest (D9). -/
  prio : BySource Nat
  /-- REF_TRIG[c] (D21). -/
  refTrig : ByTrigger AfeRef
  /-- CAL_INIT, the reset value of both calendar latches (D16). -/
  calInit : CalTime
  /-- PIN_INIT[p] (D31). -/
  pinInit : ByPin Bool
  /-- RTC_INIT (D31). -/
  rtcInit : CalTime
  /-- TMR_RUN_INIT, the reset value of each counter's run bit (D15). -/
  tmrRunInit : Bool
  /-- HOST_PORT_BINDING, where a platform maps the host commands (R62, D25): the platform address of each host operation
  code it maps. No rule reads it. Its shape is the model's (DESIGN CHOICE, assumption log 6). -/
  hostPortBinding : List (Byte × Nat)
deriving DecidableEq, Repr

/-- The parameter domains of R10. -/
structure Config.Ok (c : Config) : Prop where
  cap_pos : ∀ ch, 1 ≤ c.cap.get ch
  cap_le : ∀ ch, c.cap.get ch ≤ 65535
  wT_pos : 1 ≤ c.wT
  wT_le : c.wT ≤ 32
  lo_lt : ∀ k, c.lo.get k < 2 ^ c.wT
  hi_lt : ∀ k, c.hi.get k < 2 ^ c.wT
  pc_lowest : ∀ s, s ≠ .pc → c.prio.pc < c.prio.get s

def CalTime.zero : CalTime := ⟨0, 0, 0, 0, 0, 0⟩

/-- The parameter values 95_test_vectors.md section 0 uses. DESIGN CHOICE (assumption log 2): the spec leaves these
parameters OPEN; they are only the values `State.reset` starts with. Section 0 has none for HOST_PORT_BINDING, and the
spec places the block at no address (R62): nothing is mapped (assumption log 6). -/
def Config.vectors : Config where
  cap := ⟨3, 2, 4, 2⟩
  wT := 16
  lo := ⟨100, 10⟩
  hi := ⟨200, 20⟩
  prio := ⟨0, 2, 3, 1, 1, 1, 1⟩
  refTrig := ⟨.refHigh, .refDefault⟩
  calInit := .zero
  pinInit := ⟨false, false, false⟩
  rtcInit := .zero
  tmrRunInit := true
  hostPortBinding := []

end Sys2Proof
end

