-- ==== Sys2Proof/Machine/State.lean ====
section
/-! DEFINITION. The block's whole state as plain data (10_state.md), the reset state (rule R45), and the reasons a step
can stop: the faults of 60_exceptions.md rule R281 and the blocked outcome of 00_scope.md rule R16. -/

namespace Sys2Proof.Machine

/-- Sample storage (R22, R60): (address, sample) pairs, addresses strictly rising, no entry equal to what an unlisted
address reads as. The unit is the 16-bit entry, the only unit the spec has (R63). -/
abbrev Memory := List (Nat × Sample)

/-- What an entry that nothing has appended to holds: 0, the reset contents (R45, R116). -/
def Memory.unlisted : Sample := 0#16

/-- The canonical form of sample storage. -/
abbrev Memory.wf (m : Memory) : Prop :=
  m.Pairwise (fun c d => c.1 < d.1) ∧ ∀ c ∈ m, c.2 ≠ Memory.unlisted

/-- A sample buffer's length and full flag (R23, R24). Its samples are in `State.mem`. -/
structure Buffer where
  /-- `buf[ch].len` -/
  len : BitVec 16
  /-- `buf[ch].full` -/
  full : Bool
deriving DecidableEq, Repr

/-- A period classifier (R26, R27, R28). The counter's width is the parameter W_T, so it is a number that
EV_TIMER_TICK reduces modulo 2^W_T. -/
structure ClassifierState where
  /-- `cls[k].cnt` -/
  cnt : Nat
  /-- `cls[k].run` -/
  run : Bool
  /-- `cls[k].active` -/
  active : Bool
deriving DecidableEq, Repr

/-- The two calendar latches (R33). -/
structure CalLatches where
  prev : CalTime
  cur : CalTime
deriving DecidableEq, Repr

/-- The dual-channel sampler's state (R36). -/
inductive FastState where
  | idle | waitX | waitY
deriving DecidableEq, Repr

/-- A single-channel trigger's state (R37). -/
inductive TrigState where
  | idle | triggered
deriving DecidableEq, Repr

/-- Who holds the shared analog front-end (R38). -/
inductive Owner where
  | none | fast | bat | depth
deriving DecidableEq, Repr

/-- The front-end's channel selection (R39, 90_conflicts.md C5). -/
inductive AfeSel where
  | none | depth | bat | x | y
deriving DecidableEq, Repr

/-- The analog front-end's interface (R39, R40). -/
structure Afe where
  chsel : AfeSel
  ref : AfeRef
  en : Bool
  conv : Bool
  res : Sample
deriving DecidableEq, Repr

/-- Everything the spec gives the block (10_state.md), the parameters it is taken with (R10), and the labels still to
come: the model's own input queue, `trace`, from which `step` takes the next label. -/
structure State where
  /-- The parameters of R10, never changed (R303). -/
  cfg : Config
  /-- The model's own field: the labels presented to the block and not yet taken, the next one first (R305). -/
  trace : List Word
  /-- `buf[ch].data` of all four channels (R22, R60). -/
  mem : Memory
  /-- `buf[ch].len`, `buf[ch].full` (R23, R24). -/
  buf : ByChannel Buffer
  /-- `cls[k]` (R26-R28). -/
  cls : ByClassifier ClassifierState
  /-- `last[p]` (R30). -/
  last : ByPin Bool
  /-- `pin[p]` (R31). -/
  pin : ByPin Bool
  /-- `cal.prev`, `cal.cur` (R33). -/
  cal : CalLatches
  /-- `rtc` (R34). -/
  rtc : CalTime
  /-- `midnight` (R35). -/
  midnight : Bool
  /-- `fst` (R36). -/
  fst : FastState
  /-- `tst[c]` (R37). -/
  tst : ByTrigger TrigState
  /-- `owner` (R38). -/
  owner : Owner
  /-- `afe.chsel`, `afe.ref`, `afe.en`, `afe.conv`, `afe.res` (R39, R40). -/
  afe : Afe
  /-- `pend[s]` (R41). -/
  pend : BySource Bool
  /-- `hrd` (R42). -/
  hrd : BitVec 16
  /-- `fault` (R43). -/
  fault : Byte
  /-- `fault_label` (R43). -/
  faultLabel : Word
deriving DecidableEq, Repr

/-- The reset table of R45 for any parameters. Nothing is listed in sample storage and no label is waiting. -/
def State.resetWith (cfg : Config) : State where
  cfg := cfg
  trace := []
  mem := []
  buf := ⟨⟨0, false⟩, ⟨0, false⟩, ⟨0, false⟩, ⟨0, false⟩⟩
  cls := ⟨⟨0, cfg.tmrRunInit, false⟩, ⟨0, cfg.tmrRunInit, false⟩⟩
  last := ⟨false, false, false⟩
  pin := cfg.pinInit
  cal := ⟨cfg.calInit, cfg.calInit⟩
  rtc := cfg.rtcInit
  midnight := false
  fst := .idle
  tst := ⟨.idle, .idle⟩
  owner := .none
  afe := ⟨.none, .refDefault, false, false, 0⟩
  pend := ⟨false, false, false, false, false, false, false⟩
  hrd := 0
  fault := 0
  faultLabel := 0

/-- The block right after reset (R45, R300), with the parameters of 95_test_vectors.md (assumption log 2). -/
def State.reset : State := State.resetWith Config.vectors

/-- The fault outcome (R16, R280, R281). The first three carry the faulted state R280 describes: the state before the
label, with `fault` and `fault_label` written. -/
inductive Fault where
  /-- Code 1: `step`, for a malformed label in a non-faulted state (R87, R282). Safe: the spec's own outcome. -/
  | illegalOp (faulted : State)
  /-- Code 2: DISPATCH FT, BT or DT, when the handler needs the analog front-end and `owner` is not NONE (R191, R283).
  Safe: the spec's own outcome. -/
  | afeConflict (faulted : State)
  /-- Code 3: HC_READ_SAMPLE with an index at or above CAP (R231, R284). Safe: the spec's own outcome. -/
  | badIndex (faulted : State)
  /-- The model's own: an append to a channel whose full flag is clear at a length at or above CAP, where
  `SampleWrite` has no entry to write (R15). No state that meets R46 raises it (R65). Safe: the model stops. -/
  | storageOverrun (ch : Channel)
deriving DecidableEq, Repr

/-- Why no step happens: the blocked outcome of R16 with its ground, and the arms not modelled yet. -/
inductive Refusal where
  /-- `exec`'s arm of an instruction that has no meaning yet. Safe. -/
  | notModelled (mnemonic : String)
  /-- Any label after a fault (R280): every meaning, and `step` for a malformed label. Safe: the spec's own outcome. -/
  | blockedFaulted
  /-- A host command during the fast sampler's busy-wait (R230). Safe: the spec's own outcome. -/
  | blockedBusyWait
  /-- DISPATCH of a source that is not pending (R264). Safe: the spec's own outcome. -/
  | blockedNotPending
  /-- DISPATCH of a source the busy-wait defers (R264, R265). Safe: the spec's own outcome. -/
  | blockedNotAdmitted
  /-- EV_AFE_DONE with no conversion in flight (R195). Safe: the spec's own outcome. -/
  | blockedNoConversion
  /-- `step` with no label waiting: a step takes a state and one label (R16). Safe: nothing happens. -/
  | noLabel
deriving DecidableEq, Repr

end Sys2Proof.Machine
end

