-- ==== Sys2Proof/Machine/Operands.lean ====
section
/-! DEFINITION. How the operands of a label name state: sample addresses (20_memory.md rule R60), channel selects
(00_scope.md rule R17), the trigger channels' sources and owners (44_analog.md), calendar fields (R85, R175, R235). -/

namespace Sys2Proof.Machine

/-- The sample-storage address (ch, i) as one number: the 2-bit channel code above the 16-bit index (R60). -/
def sampleAddr (ch : Channel) (i : BitVec 16) : Nat := ch.code.toNat * 65536 + i.toNat

/-- `chsel(ch) = ch + 1` (R17). -/
def chselOf : Channel → AfeSel
  | .depth => .depth
  | .bat => .bat
  | .x => .x
  | .y => .y

/-- The 3-bit channel-select code (R17, R39). -/
def AfeSel.code : AfeSel → BitVec 3
  | .none => 0
  | .depth => 1
  | .bat => 2
  | .x => 3
  | .y => 4

/-- The code of the fast sampler's state (R17, R36); the width is the model's (DESIGN CHOICE, assumption log 19). -/
def FastState.code : FastState → BitVec 2
  | .idle => 0
  | .waitX => 1
  | .waitY => 2

/-- The code of a trigger's state (R17, R37); the width is the model's (assumption log 19). -/
def TrigState.code : TrigState → BitVec 1
  | .idle => 0
  | .triggered => 1

/-- The code of the front-end's owner (R17, R38); the width is the model's (assumption log 19). -/
def Owner.code : Owner → BitVec 2
  | .none => 0
  | .fast => 1
  | .bat => 2
  | .depth => 3

/-- The 1-bit code of the reference (R17, R39). -/
def refCode : AfeRef → BitVec 1
  | .refDefault => 0
  | .refHigh => 1

/-- The buffer channel of a single-channel trigger (R84). -/
def trigBuffer : TrigChannel → Channel
  | .depth => .depth
  | .bat => .bat

/-- The owner code of a single-channel trigger (R17, R200). -/
def trigOwner : TrigChannel → Owner
  | .depth => .depth
  | .bat => .bat

/-- The source EV_TRIGGER_TICK latches (R201). -/
def trigSource : TrigChannel → Source
  | .depth => .dt
  | .bat => .bt

/-- The source that a completed single-channel conversion latches (R195). -/
def doneSource : TrigChannel → Source
  | .depth => .dc
  | .bat => .bc

/-- The classifier that a pin's transitions drive; AUX has none (R135, R155). -/
def pinClassifier : Pin → Option Classifier
  | .wps => some .water
  | .net => some .net
  | .aux => none

/-- A calendar field, zero-extended to 16 bits (R235). -/
def calGet (t : CalTime) : CalField → BitVec 16
  | .year => t.year
  | .month => t.month.setWidth 16
  | .day => t.day.setWidth 16
  | .hour => t.hour.setWidth 16
  | .minute => t.minute.setWidth 16
  | .second => t.second.setWidth 16

/-- A calendar time with one field written: all 16 bits for YEAR, the low 8 for the others (R85, R175). -/
def calSet (t : CalTime) (fld : CalField) (v : BitVec 16) : CalTime :=
  match fld with
  | .year => { t with year := v }
  | .month => { t with month := v.setWidth 8 }
  | .day => { t with day := v.setWidth 8 }
  | .hour => { t with hour := v.setWidth 8 }
  | .minute => { t with minute := v.setWidth 8 }
  | .second => { t with second := v.setWidth 8 }

/-- The calendar latch a snapshot code names (R235). -/
def snapshotOf (s : State) : Snapshot → CalTime
  | .prev => s.cal.prev
  | .cur => s.cal.cur

end Sys2Proof.Machine
end

