-- ==== Sys2Proof/Machine/Flags.lean ====
section
/-! DEFINITION. Every flag computation of the spec (R47): the full flag, the inclusive range comparator, the
day-rollover compare, and the STATUS view. -/

namespace Sys2Proof.Machine

/-- `isFull == (length == capacity)` (R24, R110). -/
def fullAt (cap : Nat) (len : BitVec 16) : Bool := decide (len.toNat = cap)

/-- The comparator: unsigned, inclusive at both bounds (R131). -/
def inBounds (lo hi t : Nat) : Bool := decide (lo ≤ t) && decide (t ≤ hi)

/-- The rollover compare looks at DAY only (R171). -/
def dayChanged (before after : CalTime) : Bool := decide (before.day ≠ after.day)

/-- A trigger state as its STATUS bit (R44): 1 = TRIGGERED. -/
def TrigState.bit : TrigState → Bool
  | .idle => false
  | .triggered => true

/-- The STATUS view (R44, R234), the high bits first. -/
def statusWord (s : State) : BitVec 16 :=
  0#3 ++ BitVec.ofBool s.tst.depth.bit ++ BitVec.ofBool s.tst.bat.bit
    ++ BitVec.ofBool s.last.aux ++ BitVec.ofBool s.last.net ++ BitVec.ofBool s.last.wps ++ 0#1
    ++ BitVec.ofBool s.buf.y.full ++ BitVec.ofBool s.buf.x.full ++ BitVec.ofBool s.buf.bat.full
    ++ BitVec.ofBool s.buf.depth.full
    ++ BitVec.ofBool s.cls.net.active ++ BitVec.ofBool s.cls.water.active ++ BitVec.ofBool s.midnight

end Sys2Proof.Machine
end

