-- ==== Sys2Proof/Machine/Ops.lean ====
section
/-! DEFINITION. The named operations every meaning is built from: sample storage (20_memory.md), the event latches and
admission (60_exceptions.md), the analog front-end's acquire and start (44_analog.md), `tryAppend` (40_buffer.md), the
enabling tests (R16, R230), and taking a fault (R280), once. -/

namespace Sys2Proof.Machine

/-- What a meaning answers. -/
abbrev Result := Host.Outcome State Fault Refusal

/-! ### Sample storage -/

/-- The entry at an address; an unlisted one holds `Memory.unlisted`. -/
def Memory.read : Memory → Nat → Sample
  | [], _ => Memory.unlisted
  | (b, u) :: rest, a => if a = b then u else Memory.read rest a

/-- Store at an address and keep the canonical form: storing what an unlisted address reads as removes the entry. -/
def Memory.write : Memory → Nat → Sample → Memory
  | [], a, v => if v = Memory.unlisted then [] else [(a, v)]
  | (b, u) :: rest, a, v =>
    if a < b then (if v = Memory.unlisted then (b, u) :: rest else (a, v) :: (b, u) :: rest)
    else if a = b then (if v = Memory.unlisted then rest else (a, v) :: rest)
    else (b, u) :: Memory.write rest a v

/-- `SampleRead(ch, i)` (R15). The caller has checked i < CAP[ch]. -/
def sampleRead (s : State) (ch : Channel) (i : BitVec 16) : Sample := s.mem.read (sampleAddr ch i)

/-- `SampleWrite(ch, i, v)` (R15). The caller has checked i < CAP[ch]. -/
def sampleWrite (ch : Channel) (i : BitVec 16) (v : Sample) (s : State) : State :=
  { s with mem := s.mem.write (sampleAddr ch i) v }

/-! ### Taking a fault -/

/-- The fault codes of R281 that a label can raise. -/
inductive FaultCode where
  | illegalOp | afeConflict | badIndex
deriving DecidableEq, Repr

def FaultCode.code : FaultCode → Byte
  | .illegalOp => 1
  | .afeConflict => 2
  | .badIndex => 3

/-- The faulted state: the state before the label with `fault` and `fault_label` written, nothing else (R280). -/
def State.recordFault (c : FaultCode) (w : Word) (s : State) : State :=
  { s with fault := c.code, faultLabel := w }

/-- `raise Fault(code)` for the label `w` from the state `s` before it (R280). There is no return from it (R285). -/
def raiseFault (c : FaultCode) (w : Word) (s : State) : Result :=
  match c with
  | .illegalOp => .fault (.illegalOp (s.recordFault .illegalOp w))
  | .afeConflict => .fault (.afeConflict (s.recordFault .afeConflict w))
  | .badIndex => .fault (.badIndex (s.recordFault .badIndex w))

/-- Why a handler gives up: a fault of R281, or an append outside sample storage. -/
inductive Abort where
  | raise (c : FaultCode)
  | overrun (ch : Channel)
deriving DecidableEq, Repr

/-- The step's outcome from its handler's: on a fault, what the handler wrote is discarded and the state `s` before the
label `w` is recorded (R280). -/
def finish (w : Word) (s : State) : Except Abort State → Result
  | .ok t => .next t
  | .error (.raise c) => raiseFault c w s
  | .error (.overrun ch) => .fault (.storageOverrun ch)

/-! ### Enabling -/

/-- Every label is blocked after a fault (R280). -/
def ifLive (s : State) (o : Result) : Result :=
  if s.fault = 0#8 then o else .refused .blockedFaulted

/-- A host command is enabled when `fault = 0` and `fst = IDLE` (R230). -/
def ifHostEnabled (s : State) (o : Result) : Result :=
  ifLive s (if s.fst = .idle then o else .refused .blockedBusyWait)

/-- `admitted(s) = (fst = IDLE) or (PRIO[s] > PRIO[FT])` (R265). -/
def admitted (src : Source) (s : State) : Bool :=
  decide (s.fst = .idle) || decide (s.cfg.prio.get src > s.cfg.prio.ft)

/-! ### Event latches -/

/-- `latch(s)` (R263). -/
def latch (src : Source) (s : State) : State := { s with pend := s.pend.set src true }

/-- DISPATCH clears the latch before the handler runs (R264). -/
def unlatch (src : Source) (s : State) : State := { s with pend := s.pend.set src false }

/-! ### The analog front-end -/

/-- `acquire(u)` (R191). -/
def acquire (u : Owner) (s : State) : Except Abort State :=
  if s.owner = .none then .ok { s with owner := u } else .error (.raise .afeConflict)

/-- `startConv(ch, r)` (R193). -/
def startConv (ch : Channel) (r : AfeRef) (s : State) : State :=
  { s with afe := { s.afe with chsel := chselOf ch, ref := r, en := true, conv := true } }

/-! ### The bounded buffer -/

/-- The writes of an append that has room (R110): the sample at index `len`, `len` one up, `full` set when it reaches the
capacity. The caller has checked that `full` is clear. -/
def storeSample (ch : Channel) (v : Sample) (s : State) : State :=
  let len := (s.buf.get ch).len
  { sampleWrite ch len v s with buf := s.buf.set ch ⟨len + 1, fullAt (s.cfg.cap.get ch) (len + 1)⟩ }

/-- `tryAppend(ch, v) -> ok` (R110): the state after it and the bit it returns. A full buffer changes nothing (R111). -/
def tryAppend (ch : Channel) (v : Sample) (s : State) : Except Abort (State × Bool) :=
  let b := s.buf.get ch
  if b.full then .ok (s, false)
  else if b.len.toNat < s.cfg.cap.get ch then .ok (storeSample ch v s, true)
  else .error (.overrun ch)

/-- An append whose returned bit the caller discards, as every handler does (R113). -/
def append (ch : Channel) (v : Sample) (s : State) : Except Abort State :=
  match tryAppend ch v s with
  | .ok (t, _) => .ok t
  | .error a => .error a

end Sys2Proof.Machine
end

