-- ==== Sys2Proof/Machine/Analog.lean ====
section
/-! DEFINITION. The analog sampler and the single-channel triggers (44_analog.md): the FT, BT, DT, BC and DC handlers,
the FT continuation, EV_FAST_TICK, EV_TRIGGER_TICK, EV_AFE_DONE. -/

namespace Sys2Proof.Machine

/-- Take the front-end for the fast sampler, start one channel's conversion at the high-accuracy reference and begin
the busy-wait `wait` (R192). -/
def beginFast (ch : Channel) (wait : FastState) (s : State) : Except Abort State :=
  match acquire .fast s with
  | .ok t => .ok { startConv ch .refHigh t with fst := wait }
  | .error a => .error a

/-- Handler FT (R192): x if it is not full, else y if it is not full, else nothing (R198). -/
def handlerFT (s : State) : Except Abort State :=
  if s.buf.x.full = false then beginFast .x .waitX s
  else if s.buf.y.full = false then beginFast .y .waitY s
  else .ok s

/-- "Stop the converter" (R190). -/
def stopConv (s : State) : State := { s with afe := { s.afe with en := false } }

/-- Restore the reference's default setting (R199). -/
def restoreRef (s : State) : State := { s with afe := { s.afe with ref := .refDefault } }

/-- The FT handler returns: the busy-wait is over and the front-end is free (R196). -/
def endFast (s : State) : State := { s with fst := .idle, owner := .none }

/-- After the x conversion: start the y conversion if y is not full, else return (R196). -/
def goToY (s : State) : State :=
  if s.buf.y.full = false then { startConv .y .refHigh s with fst := .waitY } else endFast s

/-- `ft_continue()` (R196). The rule's `else` branch is taken in every state but WAIT_X. -/
def ftContinue (s : State) : Except Abort State :=
  let s := stopConv s
  if s.fst = .waitX then
    match append .x s.afe.res s with
    | .ok t => .ok (goToY (restoreRef t))
    | .error a => .error a
  else
    match append .y s.afe.res s with
    | .ok t => .ok (endFast (restoreRef t))
    | .error a => .error a

/-- Handlers BT and DT (R200). The buffer's full flag is not tested (R203). -/
def handlerTrig (c : TrigChannel) (s : State) : Except Abort State :=
  match acquire (trigOwner c) s with
  | .ok t => .ok (startConv (trigBuffer c) (s.cfg.refTrig.get c) { t with tst := t.tst.set c .triggered })
  | .error a => .error a

/-- Handlers BC and DC (R202). The converter is not stopped and the reference is not restored (R205). -/
def handlerDone (c : TrigChannel) (s : State) : Except Abort State :=
  match append (trigBuffer c) s.afe.res s with
  | .ok t => .ok { t with tst := t.tst.set c .idle, owner := .none }
  | .error a => .error a

/-- What a completed conversion writes at the block's boundary (R40, R195). -/
def latchResult (v : Sample) (s : State) : State := { s with afe := { s.afe with conv := false, res := v } }

/-- Route a completion by the front-end's owner (R195, D20). The rule has no case for NONE, which cannot occur with a
conversion in flight (R46 invariant 7): nothing more is done then (DEDUCED, assumption log 9). -/
def routeDone (s : State) : Except Abort State :=
  match s.owner with
  | .fast => ftContinue s
  | .bat => .ok (latch .bc s)
  | .depth => .ok (latch .dc s)
  | .none => .ok s

/-- EV_FAST_TICK (R194). Never blocked in a non-faulted state. -/
def execEvFastTick (s : State) : Result := ifLive s (.next (latch .ft s))

/-- EV_TRIGGER_TICK c (R201). Never blocked in a non-faulted state. -/
def execEvTriggerTick (c : TrigChannel) (s : State) : Result := ifLive s (.next (latch (trigSource c) s))

/-- EV_AFE_DONE v (R195). Blocked when no conversion is in flight (D29). -/
def execEvAfeDone (result : Sample) (s : State) : Result :=
  ifLive s (if s.afe.conv then
      finish (encode (.evAfeDone result)) s (routeDone (latchResult result s))
    else .refused .blockedNoConversion)

end Sys2Proof.Machine
end

