-- ==== Sys2Proof/Machine/Classifier.lean ====
section
/-! DEFINITION. The period classifier (41_classifier.md): `classify` and EV_TIMER_TICK. -/

namespace Sys2Proof.Machine

/-- One count of an elapsed-tick counter: only while it runs, wrapping modulo 2^W_T (R136, R137). -/
def countTick (wT : Nat) (c : ClassifierState) : ClassifierState :=
  if c.run then { c with cnt := (c.cnt + 1) % 2 ^ wT } else c

/-- `classify(k)` (R130): stop, read, compare, reset to 0, restart, in one step. -/
def classify (k : Classifier) (s : State) : State :=
  let c := s.cls.get k
  { s with cls := s.cls.set k ⟨0, true, inBounds (s.cfg.lo.get k) (s.cfg.hi.get k) c.cnt⟩ }

/-- EV_TIMER_TICK k (R136). Never blocked in a non-faulted state. -/
def execEvTimerTick (k : Classifier) (s : State) : Result :=
  ifLive s (.next { s with cls := s.cls.set k (countTick s.cfg.wT (s.cls.get k)) })

end Sys2Proof.Machine
end

