-- ==== Sys2Proof/Machine/PinChange.lean ====
section
/-! DEFINITION. The pin-change dispatcher (42_dispatcher.md): the PC handler, EV_PIN_LEVEL, EV_PIN_CHANGE. -/

namespace Sys2Proof.Machine

/-- The reaction to one pin whose sampled level is `l` (R150): on a change, record the level, and classify where the
pin has a classifier. -/
def pinReaction (p : Pin) (l : Bool) (s : State) : State :=
  if l = s.last.get p then s
  else
    let t := { s with last := s.last.set p l }
    match pinClassifier p with
    | some k => classify k t
    | none => t

/-- Handler PC (R150): one sample of the three pins (R154), all three comparisons made (R151). -/
def handlerPC (s : State) : State :=
  pinReaction .aux s.pin.aux (pinReaction .net s.pin.net (pinReaction .wps s.pin.wps s))

/-- EV_PIN_LEVEL p, L (R156). Never blocked in a non-faulted state. -/
def execEvPinLevel (p : Pin) (level : Bool) (s : State) : Result :=
  ifLive s (.next (if s.pin.get p = level then s else latch .pc { s with pin := s.pin.set p level }))

/-- EV_PIN_CHANGE (R157). Never blocked in a non-faulted state. -/
def execEvPinChange (s : State) : Result := ifLive s (.next (latch .pc s))

end Sys2Proof.Machine
end

