-- ==== Sys2Proof/Machine/Rollover.lean ====
section
/-! DEFINITION. The day-rollover comparator (43_rollover.md): the ST handler, EV_SECOND_TICK, EV_RTC_SET. -/

namespace Sys2Proof.Machine

/-- Handler ST (R170): shift, read the clock whole, set `midnight` when DAY differs; never clear it (R172). -/
def handlerST (s : State) : State :=
  { s with cal := ⟨s.cal.cur, s.rtc⟩, midnight := dayChanged s.cal.cur s.rtc || s.midnight }

/-- EV_SECOND_TICK (R174). Never blocked in a non-faulted state. -/
def execEvSecondTick (s : State) : Result := ifLive s (.next (latch .st s))

/-- EV_RTC_SET fld, v (R175). Never blocked in a non-faulted state. -/
def execEvRtcSet (fld : CalField) (value : BitVec 16) (s : State) : Result :=
  ifLive s (.next { s with rtc := calSet s.rtc fld value })

end Sys2Proof.Machine
end

