-- ==== Sys2Proof/Machine/Events.lean ====
section
/-! DEFINITION. DISPATCH (60_exceptions.md rules R261 and R264): which handler a source runs, and when. -/

namespace Sys2Proof.Machine

/-- The handler of each event source (R261). -/
def runHandler (src : Source) (s : State) : Except Abort State :=
  match src with
  | .pc => .ok (handlerPC s)
  | .ft => handlerFT s
  | .st => .ok (handlerST s)
  | .bt => handlerTrig .bat s
  | .dt => handlerTrig .depth s
  | .bc => handlerDone .bat s
  | .dc => handlerDone .depth s

/-- DISPATCH s (R264): blocked when not pending or not admitted; else clear the latch and run the handler. -/
def execDispatch (src : Source) (s : State) : Result :=
  ifLive s (if s.pend.get src = false then .refused .blockedNotPending
    else if admitted src s = false then .refused .blockedNotAdmitted
    else finish (encode (.dispatch src)) s (runHandler src (unlatch src s)))

end Sys2Proof.Machine
end

