-- ==== Sys2Proof/Machine/HostPort.lean ====
section
/-! DEFINITION. The seven host commands (45_host.md). -/

namespace Sys2Proof.Machine

/-- A host read: its result goes to `hrd` (R42, R66). -/
def hostRead (v : BitVec 16) (s : State) : State := { s with hrd := v }

/-- HC_READ_SAMPLE ch, i (R231). -/
def execHcReadSample (ch : Channel) (index : BitVec 16) (s : State) : Result :=
  ifHostEnabled s (if index.toNat < s.cfg.cap.get ch then .next (hostRead (sampleRead s ch index) s)
    else raiseFault .badIndex (encode (.hcReadSample ch index)) s)

/-- HC_READ_LENGTH ch (R232). -/
def execHcReadLength (ch : Channel) (s : State) : Result :=
  ifHostEnabled s (.next (hostRead (s.buf.get ch).len s))

/-- HC_READ_CAPACITY ch (R233). -/
def execHcReadCapacity (ch : Channel) (s : State) : Result :=
  ifHostEnabled s (.next (hostRead (BitVec.ofNat 16 (s.cfg.cap.get ch)) s))

/-- HC_READ_STATUS (R234). -/
def execHcReadStatus (s : State) : Result := ifHostEnabled s (.next (hostRead (statusWord s) s))

/-- HC_READ_CALENDAR snap, fld (R235). -/
def execHcReadCalendar (snap : Snapshot) (fld : CalField) (s : State) : Result :=
  ifHostEnabled s (.next (hostRead (calGet (snapshotOf s snap) fld) s))

/-- HC_RESET_BUFFER ch (R236): the samples stay (R116). -/
def execHcResetBuffer (ch : Channel) (s : State) : Result :=
  ifHostEnabled s (.next { s with buf := s.buf.set ch ⟨0, false⟩ })

/-- One output flag cleared (R237). -/
def clearFlag (f : Flag) (s : State) : State :=
  match f with
  | .midnight => { s with midnight := false }
  | .water => { s with cls := s.cls.set .water { s.cls.water with active := false } }
  | .net => { s with cls := s.cls.set .net { s.cls.net with active := false } }

/-- HC_CLEAR_FLAG f (R237). -/
def execHcClearFlag (f : Flag) (s : State) : Result := ifHostEnabled s (.next (clearFlag f s))

end Sys2Proof.Machine
end

