-- ==== Sys2Proof/Machine/Dispatch.lean ====
section
/-! DEFINITION. One arm per step label: the meaning of every row of spec/opcode_table.json. -/

namespace Sys2Proof.Machine

def exec (i : Instr) (s : State) : Host.Outcome State Fault Refusal :=
  match i with
  | .evPinLevel p level => Sys2Proof.Machine.execEvPinLevel p level s
  | .evPinChange => Sys2Proof.Machine.execEvPinChange s
  | .evTimerTick k => Sys2Proof.Machine.execEvTimerTick k s
  | .evFastTick => Sys2Proof.Machine.execEvFastTick s
  | .evSecondTick => Sys2Proof.Machine.execEvSecondTick s
  | .evRtcSet fld value => Sys2Proof.Machine.execEvRtcSet fld value s
  | .evTriggerTick c => Sys2Proof.Machine.execEvTriggerTick c s
  | .evAfeDone result => Sys2Proof.Machine.execEvAfeDone result s
  | .dispatch src => Sys2Proof.Machine.execDispatch src s
  | .hcReadSample ch index => Sys2Proof.Machine.execHcReadSample ch index s
  | .hcReadLength ch => Sys2Proof.Machine.execHcReadLength ch s
  | .hcReadCapacity ch => Sys2Proof.Machine.execHcReadCapacity ch s
  | .hcReadStatus => Sys2Proof.Machine.execHcReadStatus s
  | .hcReadCalendar snap fld => Sys2Proof.Machine.execHcReadCalendar snap fld s
  | .hcResetBuffer ch => Sys2Proof.Machine.execHcResetBuffer ch s
  | .hcClearFlag f => Sys2Proof.Machine.execHcClearFlag f s

end Sys2Proof.Machine
end

