-- ==== Sys2Proof/Machine/Fetch.lean ====
section
/-! DEFINITION. Taking one label word: decode first, a malformed word faults (R16, R87), a well-formed one runs. -/

namespace Sys2Proof.Machine

/-- One label of the block (R16): decode, then the label's meaning. A malformed label faults in every non-faulted
state, and after a fault every label is blocked (R87, R280). -/
def takeLabel (w : Word) (s : State) : Result :=
  match decode w with
  | .ok i => exec i s
  | .error _ => ifLive s (raiseFault .illegalOp w s)

/-- The labels of a trace, one after the other (R305), stopping at the first that is no next state. -/
def takeLabels : List Word → State → Result
  | [], s => .next s
  | w :: ws, s =>
    match takeLabel w s with
    | .next t => takeLabels ws t
    | .fault r => .fault r
    | .refused r => .refused r

/-- The labels of a list of instructions. -/
def encodeAll (is : List Instr) : List Word := is.map encode

end Sys2Proof.Machine
end

