-- ==== Sys2Proof/Machine/Step.lean ====
section
/-! DEFINITION. One step: take the next label of `trace`, and how a label is placed there. -/

namespace Sys2Proof.Machine

/-- A step takes the next waiting label off `trace` and runs it (R16, R305). With no label waiting there is no step. -/
def step (s : State) : Host.Outcome State Fault Refusal :=
  match s.trace with
  | [] => .refused .noLabel
  | w :: rest => takeLabel w { s with trace := rest }

/-- `s` with the label of the low `nbits` bits of `w` presented next, before the labels already waiting. -/
def State.withFetchWord (s : State) (nbits w : Nat) : State :=
  { s with trace := BitVec.ofNat 32 (w % 2 ^ nbits) :: s.trace }

end Sys2Proof.Machine
end

