-- ==== Sys2Proof/Machine/Assembler.lean ====
section
/-! DEFINITION. The assembler syntax of 30_encoding.md rule R91 and the pseudo-instructions of rule R92. A line is a
list of characters; assembling it gives the labels it stands for, or nothing where the rules call it an error. -/

namespace Sys2Proof.Machine

/-! ### Pseudo-instructions -/

/-- The pseudo-instructions of R92; `ft.run` has three forms. -/
inductive Pseudo where
  | timerTicks (k : Classifier) (n : Nat)
  | rtcLoad (t : CalTime)
  | secRun
  | pinSet (p : Pin) (level : Bool)
  | ftRunNone
  | ftRunOne (v : Sample)
  | ftRunBoth (v1 v2 : Sample)
  | trigRun (c : TrigChannel) (v : Sample)
  | hostDrain (ch : Channel) (n : Nat)
deriving DecidableEq, Repr

/-- The labels a pseudo-instruction stands for, in order, independent of state (R92). -/
def Pseudo.expand : Pseudo → List Instr
  | .timerTicks k n => List.replicate n (.evTimerTick k)
  | .rtcLoad t =>
    [.evRtcSet .year t.year, .evRtcSet .month (t.month.setWidth 16), .evRtcSet .day (t.day.setWidth 16),
      .evRtcSet .hour (t.hour.setWidth 16), .evRtcSet .minute (t.minute.setWidth 16),
      .evRtcSet .second (t.second.setWidth 16)]
  | .secRun => [.evSecondTick, .dispatch .st]
  | .pinSet p level => [.evPinLevel p level, .dispatch .pc]
  | .ftRunNone => [.evFastTick, .dispatch .ft]
  | .ftRunOne v => [.evFastTick, .dispatch .ft, .evAfeDone v]
  | .ftRunBoth v1 v2 => [.evFastTick, .dispatch .ft, .evAfeDone v1, .evAfeDone v2]
  | .trigRun .bat v => [.evTriggerTick .bat, .dispatch .bt, .evAfeDone v, .dispatch .bc]
  | .trigRun .depth v => [.evTriggerTick .depth, .dispatch .dt, .evAfeDone v, .dispatch .dc]
  | .hostDrain ch n => (List.range n).map (fun i => .hcReadSample ch (BitVec.ofNat 16 i)) ++ [.hcResetBuffer ch]

/-! ### Lines, words and operands -/

def isBlank (c : Char) : Bool := c = ' ' || c = '\t'

def trimLeft (cs : List Char) : List Char := cs.dropWhile isBlank

def trim (cs : List Char) : List Char := (trimLeft (trimLeft cs).reverse).reverse

/-- The parts between commas. -/
def splitCommas : List Char → List (List Char)
  | [] => [[]]
  | c :: cs =>
    match splitCommas cs with
    | [] => [[c]]
    | w :: ws => if c = ',' then [] :: w :: ws else (c :: w) :: ws

/-- The mnemonic of a line, and its operands; a `;` starts a comment. -/
def splitLine (line : List Char) : List Char × List (List Char) :=
  let code := trim (line.takeWhile (· ≠ ';'))
  let operands := trim (code.dropWhile (fun c => !isBlank c))
  (code.takeWhile (fun c => !isBlank c), if operands = [] then [] else (splitCommas operands).map trim)

/-- The digits of R91's numbers in the order of their values; the first ten are the decimal ones. -/
def digitNames : List Char := "0123456789abcdef".toList

/-- What a digit counts for: its place among `digitNames`, in either case. -/
def digitOf (c : Char) : Option Nat := digitNames.idxOf? c.toLower

/-- Digits of a base, continuing from the number read so far. -/
def digits (base : Nat) : Nat → List Char → Option Nat
  | n, [] => some n
  | n, c :: cs => (digitOf c).bind fun d => if d < base then digits base (base * n + d) cs else none

/-- A number: decimal, or hexadecimal after `0x`. -/
def number : List Char → Option Nat
  | [] => none
  | ['0', 'x'] => none
  | '0' :: 'x' :: cs => digits 16 0 cs
  | cs => digits 10 0 cs

/-- A number that fits 16 bits. -/
def number16 (cs : List Char) : Option (BitVec 16) :=
  (number cs).bind fun n => if n < 65536 then some (BitVec.ofNat 16 n) else none

/-- A number that fits 8 bits. -/
def number8 (cs : List Char) : Option Byte :=
  (number cs).bind fun n => if n < 256 then some (BitVec.ofNat 8 n) else none

/-- A level: 0 or 1. -/
def level (cs : List Char) : Option Bool :=
  (number cs).bind fun n => if n = 0 then some false else if n = 1 then some true else none

/-- An operand name, in any case (R91). -/
def named {α : Type} (names : List (String × α)) (cs : List Char) : Option α :=
  (names.find? fun p => p.1.toList = cs.map Char.toLower).map Prod.snd

def pinName := named [("wps", Pin.wps), ("net", Pin.net), ("aux", Pin.aux)]

def classifierName := named [("water", Classifier.water), ("net", Classifier.net)]

def fieldName := named [("year", CalField.year), ("month", CalField.month), ("day", CalField.day),
  ("hour", CalField.hour), ("minute", CalField.minute), ("second", CalField.second)]

def trigName := named [("depth", TrigChannel.depth), ("bat", TrigChannel.bat)]

def sourceName := named [("pc", Source.pc), ("ft", Source.ft), ("st", Source.st), ("bt", Source.bt),
  ("dt", Source.dt), ("bc", Source.bc), ("dc", Source.dc)]

def channelName := named [("depth", Channel.depth), ("bat", Channel.bat), ("x", Channel.x), ("y", Channel.y)]

def snapName := named [("prev", Snapshot.prev), ("cur", Snapshot.cur)]

def flagName := named [("midnight", Flag.midnight), ("water", Flag.water), ("net", Flag.net)]

/-! ### The syntax table of R91 and the pseudo-instruction table of R92 -/

/-- A line that takes no operands. -/
def takes0 (i : Instr) : List (List Char) → Option (List Instr)
  | [] => some [i]
  | _ => none

/-- A line that takes one operand. -/
def takes1 {α : Type} (p : List Char → Option α) (f : α → List Instr) : List (List Char) → Option (List Instr)
  | [a] => (p a).map f
  | _ => none

/-- A line that takes two operands. -/
def takes2 {α β : Type} (p : List Char → Option α) (q : List Char → Option β) (f : α → β → List Instr) :
    List (List Char) → Option (List Instr)
  | [a, b] => (p a).bind fun u => (q b).map fun v => f u v
  | _ => none

/-- `rtc.set F, V`: 16 bits for YEAR, 8 for the other fields. -/
def takesRtcSet : List (List Char) → Option (List Instr)
  | [a, b] => (fieldName a).bind fun fld => (number16 b).bind fun v =>
      if rtcValueFits fld v then some [.evRtcSet fld v] else none
  | _ => none

/-- `rtc.load Y, MO, D, H, MI, S` (R92). -/
def takesRtcLoad : List (List Char) → Option (List Instr)
  | [y, mo, d, h, mi, s] =>
    (number16 y).bind fun y => (number8 mo).bind fun mo => (number8 d).bind fun d => (number8 h).bind fun h =>
      (number8 mi).bind fun mi => (number8 s).map fun s => (Pseudo.rtcLoad ⟨y, mo, d, h, mi, s⟩).expand
  | _ => none

/-- The three forms of `ft.run` (R92). -/
def takesFtRun : List (List Char) → Option (List Instr)
  | [] => some Pseudo.ftRunNone.expand
  | [a] => (number16 a).map fun v => (Pseudo.ftRunOne v).expand
  | [a, b] => (number16 a).bind fun v1 => (number16 b).map fun v2 => (Pseudo.ftRunBoth v1 v2).expand
  | _ => none

/-- The N of `host.drain CH, N`: the last index N − 1 must fit DATA. N = 0, of which R92 says nothing for this line, is
accepted and gives `host.reset CH` alone (DESIGN CHOICE, assumption log 11). -/
def drainCount (cs : List Char) : Option Nat :=
  (number cs).bind fun n => if n ≤ 65536 then some n else none

/-- Every mnemonic with the reader of its operands. -/
def syntaxTable : List (String × (List (List Char) → Option (List Instr))) :=
  [ ("pin.level", takes2 pinName level fun p l => [.evPinLevel p l]),
    ("pin.change", takes0 .evPinChange),
    ("timer.tick", takes1 classifierName fun k => [.evTimerTick k]),
    ("tick.fast", takes0 .evFastTick),
    ("tick.second", takes0 .evSecondTick),
    ("rtc.set", takesRtcSet),
    ("tick.trigger", takes1 trigName fun c => [.evTriggerTick c]),
    ("afe.done", takes1 number16 fun v => [.evAfeDone v]),
    ("dispatch", takes1 sourceName fun s => [.dispatch s]),
    ("host.rd_sample", takes2 channelName number16 fun ch i => [.hcReadSample ch i]),
    ("host.rd_len", takes1 channelName fun ch => [.hcReadLength ch]),
    ("host.rd_cap", takes1 channelName fun ch => [.hcReadCapacity ch]),
    ("host.rd_status", takes0 .hcReadStatus),
    ("host.rd_cal", takes2 snapName fieldName fun sn fld => [.hcReadCalendar sn fld]),
    ("host.reset", takes1 channelName fun ch => [.hcResetBuffer ch]),
    ("host.clear", takes1 flagName fun f => [.hcClearFlag f]) ] ++
  [ ("timer.ticks", takes2 classifierName number fun k n => (Pseudo.timerTicks k n).expand),
    ("rtc.load", takesRtcLoad),
    ("sec.run", fun ops => if ops = [] then some Pseudo.secRun.expand else none),
    ("pin.set", takes2 pinName level fun p l => (Pseudo.pinSet p l).expand),
    ("ft.run", takesFtRun),
    ("trig.run", takes2 trigName number16 fun c v => (Pseudo.trigRun c v).expand),
    ("host.drain", takes2 channelName drainCount fun ch n => (Pseudo.hostDrain ch n).expand) ]

/-- One line: nothing for a blank or comment line, the labels of a mnemonic of R91 or R92, `none` for an assembly
error. -/
def assembleLine (line : List Char) : Option (List Instr) :=
  let (m, operands) := splitLine line
  if m = [] then some []
  else (syntaxTable.find? fun p => p.1.toList = m).bind fun p => p.2 operands

/-- A text of one line each. -/
def assemble : List (List Char) → Option (List Instr)
  | [] => some []
  | l :: ls => (assembleLine l).bind fun is => (assemble ls).map fun js => is ++ js

end Sys2Proof.Machine
end

