-- ==== Sys2Proof/Safety.lean ====
section
/-! DEFINITION. What claims about the block are stated in: the invariants of 10_state.md rule R46, runs and good ends
(70_reset_and_hazards.md rules R305 and R306), and repeated appends (40_buffer.md rule R115). -/

namespace Sys2Proof.Machine

/-- Invariants 1 and 2 of R46 for one buffer: len ≤ CAP, and full exactly when len = CAP. -/
structure Buffer.Ok (cap : Nat) (b : Buffer) : Prop where
  len_le : b.len.toNat ≤ cap
  full_iff : b.full = true ↔ b.len.toNat = cap

/-- Sample storage is canonical and lists only addresses that exist: (ch, i) with i < CAP[ch] (R60). -/
structure Memory.Ok (cfg : Config) (m : Memory) : Prop where
  wf : m.wf
  exists_at : ∀ c ∈ m, ∃ ch i, c.1 = sampleAddr ch i ∧ i.toNat < cfg.cap.get ch

/-- The invariants of R46, numbered as there, with the parameter domains of R10, the form of sample storage and the
range of the counters (R26). -/
structure State.Inv (s : State) : Prop where
  cfg : s.cfg.Ok
  mem : s.mem.Ok s.cfg
  cnt_lt : ∀ k, (s.cls.get k).cnt < 2 ^ s.cfg.wT
  /-- Invariants 1 and 2. -/
  buf : ∀ ch, (s.buf.get ch).Ok (s.cfg.cap.get ch)
  /-- Invariant 3. -/
  fast_owner : s.owner = .fast ↔ s.fst ≠ .idle
  /-- Invariant 4. -/
  trig_owner : ∀ c, s.owner = trigOwner c ↔ s.tst.get c = .triggered
  /-- Invariant 5. -/
  wait_conv : s.fst ≠ .idle → s.afe.conv = true
  /-- Invariant 6, first part. -/
  done_pending : ∀ c, s.pend.get (doneSource c) = true → s.owner = trigOwner c ∧ s.afe.conv = false
  /-- Invariant 6, second part: exactly one of the conversion in flight and the completion pending. -/
  trig_owes_one : ∀ c, s.owner = trigOwner c → s.afe.conv = !(s.pend.get (doneSource c))
  /-- Invariant 7. -/
  conv_owned : s.afe.conv = true → s.owner ≠ .none ∧ s.afe.en = true
  /-- Invariant 8. -/
  running : s.cfg.tmrRunInit = true → ∀ k, (s.cls.get k).run = true

/-- A good end (R306). -/
structure State.GoodEnd (s : State) : Prop where
  fault : s.fault = 0#8
  pend : ∀ src, s.pend.get src = false
  fst : s.fst = .idle
  owner : s.owner = .none

/-- A run (R305): every label of `ws` has the outcome next state, from `s` to `t`. -/
def IsRun (ws : List Word) (s t : State) : Prop := takeLabels ws s = .next t

/-- A safe run (R305, R306): one that ends in a good end. -/
def SafeRun (ws : List Word) (s t : State) : Prop := IsRun ws s t ∧ t.GoodEnd

/-- Append a list of samples to one buffer, one after the other. -/
def appendAll (ch : Channel) : List Sample → State → Except Abort State
  | [], s => .ok s
  | v :: vs, s =>
    match append ch v s with
    | .ok t => appendAll ch vs t
    | .error a => .error a

end Sys2Proof.Machine
end

