-- ==== Sys2Proof/Certificates/Slice0/Obligations.lean ====
section
/-! DEFINITION. The statements about the block, in the order of the spec's files. Where a statement says
`t = { s with f := t.f, … }`, every field not named is unchanged: that is its frame. -/

open Sys2Proof Sys2Proof.Machine

/-! ### Encoding (30_encoding.md) -/

/-- No bit of an encoding is dropped: decoding the label of a well-formed instruction gives it back. -/
def Obligations.DecodeOfEncodeGivesTheInstructionBack : Prop :=
  ∀ i : Instr, i.wf = true → decode (encode i) = .ok i

/-- No two words are one label: a word that decodes is the label of what it decodes to, a well-formed instruction. -/
def Obligations.EncodeOfDecodeGivesTheWordBack : Prop :=
  ∀ (w : Word) (i : Instr), decode w = .ok i → i.wf = true ∧ encode i = w

/-- R86: the decoder accepts exactly the words that `wf(w)` holds of. -/
def Obligations.DecoderAcceptsExactlyTheWellFormedWords : Prop :=
  ∀ w : Word, (∃ i, decode w = .ok i) ↔ wfWord w = true

/-- R93: each label is OPC·2^24 + SEL·2^16 + DATA, and the rule's example words decode as it lists them. -/
def Obligations.ExampleWordsDecodeAsListed : Prop :=
  (∀ i : Instr, (encode i).toNat = i.opc.code.toNat * 2 ^ 24 + i.sel.toNat * 2 ^ 16 + i.data.toNat) ∧
  decode 0x01000001 = .ok (.evPinLevel .wps true) ∧
  decode 0x01010000 = .ok (.evPinLevel .net false) ∧
  decode 0x01020001 = .ok (.evPinLevel .aux true) ∧
  decode 0x02000000 = .ok .evPinChange ∧
  decode 0x03000000 = .ok (.evTimerTick .water) ∧
  decode 0x03010000 = .ok (.evTimerTick .net) ∧
  decode 0x04000000 = .ok .evFastTick ∧
  decode 0x05000000 = .ok .evSecondTick ∧
  decode 0x060007EA = .ok (.evRtcSet .year 2026) ∧
  decode 0x0602001F = .ok (.evRtcSet .day 31) ∧
  decode 0x07000000 = .ok (.evTriggerTick .depth) ∧
  decode 0x07010000 = .ok (.evTriggerTick .bat) ∧
  decode 0x08001234 = .ok (.evAfeDone 0x1234) ∧
  decode 0x20000000 = .ok (.dispatch .pc) ∧
  decode 0x20010000 = .ok (.dispatch .ft) ∧
  decode 0x20020000 = .ok (.dispatch .st) ∧
  decode 0x20030000 = .ok (.dispatch .bt) ∧
  decode 0x20040000 = .ok (.dispatch .dt) ∧
  decode 0x20050000 = .ok (.dispatch .bc) ∧
  decode 0x20060000 = .ok (.dispatch .dc) ∧
  decode 0x40020003 = .ok (.hcReadSample .x 3) ∧
  decode 0x41030000 = .ok (.hcReadLength .y) ∧
  decode 0x42010000 = .ok (.hcReadCapacity .bat) ∧
  decode 0x43000000 = .ok .hcReadStatus ∧
  decode 0x440A0000 = .ok (.hcReadCalendar .cur .day) ∧
  decode 0x44020000 = .ok (.hcReadCalendar .prev .day) ∧
  decode 0x45020000 = .ok (.hcResetBuffer .x) ∧
  decode 0x46000000 = .ok (.hcClearFlag .midnight) ∧
  decode 0x01030000 = .error .badSelector ∧
  decode 0x06060000 = .error .badSelector ∧
  decode 0x07020000 = .error .badSelector ∧
  decode 0x20070000 = .error .badSelector ∧
  decode 0x00000000 = .error .reservedOpcode ∧
  decode 0xFFFFFFFF = .error .reservedOpcode

/-- R81, R83: the class of a label is fixed by its operation code's range. -/
def Obligations.LabelClassFollowsTheOpcodeRange : Prop :=
  ∀ i : Instr,
    (i.labelClass = .env ↔ 1 ≤ (opcOf (encode i)).toNat ∧ (opcOf (encode i)).toNat ≤ 8) ∧
    (i.labelClass = .int ↔ (opcOf (encode i)).toNat = 0x20) ∧
    (i.labelClass = .host ↔ 0x40 ≤ (opcOf (encode i)).toNat ∧ (opcOf (encode i)).toNat ≤ 0x46)

/-- R91, R92: the assembler never emits an illegal word. -/
def Obligations.AssembledLinesAreWellFormedLabels : Prop :=
  ∀ (line : List Char) (is : List Instr), assembleLine line = some is → ∀ i ∈ is, wfWord (encode i) = true

/-! ### The step and the fault outcome (00_scope.md, 60_exceptions.md, 70_reset_and_hazards.md) -/

/-- A step whose next waiting label decodes runs that instruction, on the state with the label taken off `trace`. -/
def Obligations.StepRunsTheDecodedLabel : Prop :=
  ∀ (s : State) (w : Word) (rest : List Word) (i : Instr), s.trace = w :: rest → decode w = .ok i →
    step s = exec i { s with trace := rest }

/-- R305 for this model: stepping through a whole `trace` (the model's own input queue, assumption log 1) is taking its
labels one after the other. -/
def Obligations.SteppingThroughATraceTakesItsLabels : Prop :=
  ∀ (ws : List Word) (s t : State), s.trace = [] →
    (Host.Core.run Sys2Proof.core ws.length { s with trace := ws } = .next t ↔ takeLabels ws s = .next t)

/-- R87, R282: a malformed label faults with ILLEGAL_OP in every non-faulted state, whatever else holds there. -/
def Obligations.MalformedLabelFaultsInEveryLiveState : Prop :=
  ∀ (s : State) (w : Word), s.fault = 0#8 → wfWord w = false →
    takeLabel w s = .fault (.illegalOp { s with fault := 1, faultLabel := w })

/-- R280: a fault leaves the state before the label, with `fault` and `fault_label` written; from a faulted state no
label has a step, and it is no good end. -/
def Obligations.FaultOutcomeIsPreciseAndFinal : Prop :=
  (∀ (w : Word) (s t : State), takeLabel w s = .fault (.illegalOp t) → t = { s with fault := 1, faultLabel := w }) ∧
  (∀ (w : Word) (s t : State), takeLabel w s = .fault (.afeConflict t) → t = { s with fault := 2, faultLabel := w }) ∧
  (∀ (w : Word) (s t : State), takeLabel w s = .fault (.badIndex t) → t = { s with fault := 3, faultLabel := w }) ∧
  (∀ (w : Word) (s : State), s.fault ≠ 0#8 → takeLabel w s = .refused .blockedFaulted ∧ ¬ s.GoodEnd)

/-- R281: what a well-formed label can fault with, and when. `storageOverrun` is the model's own (assumption log 8): it
needs a buffer whose full flag is clear at or above its capacity. -/
def Obligations.FaultsHaveOnlyTheirOwnCauses : Prop :=
  ∀ (i : Instr) (s : State) (r : Fault), exec i s = .fault r →
    ((∃ t, r = .afeConflict t) ∧ (i = .dispatch .ft ∨ i = .dispatch .bt ∨ i = .dispatch .dt) ∧ s.owner ≠ .none) ∨
    ((∃ t, r = .badIndex t) ∧ ∃ ch idx, i = .hcReadSample ch idx ∧ s.cfg.cap.get ch ≤ idx.toNat) ∨
    (∃ ch, r = .storageOverrun ch ∧ (s.buf.get ch).full = false ∧ s.cfg.cap.get ch ≤ (s.buf.get ch).len.toNat)

/-- R65: in a state that meets R46, no append forms an index outside the storage. -/
def Obligations.NoAppendLeavesSampleStorage : Prop :=
  ∀ (w : Word) (s : State) (ch : Channel), s.Inv → takeLabel w s ≠ .fault (.storageOverrun ch)

/-- R43: only a fault outcome writes `fault` and `fault_label`. -/
def Obligations.NextStatesLeaveTheFaultRegistersAlone : Prop :=
  ∀ (i : Instr) (s t : State), exec i s = .next t →
    s.fault = 0#8 ∧ t.fault = 0#8 ∧ t.faultLabel = s.faultLabel

/-- R303: no label changes a parameter. -/
def Obligations.NoLabelChangesAParameter : Prop :=
  ∀ (w : Word) (s t : State), takeLabel w s = .next t → t.cfg = s.cfg

/-! ### Environment labels -/

/-- R156: EV_PIN_LEVEL drives one pin and, only on a change, latches PC. It completes in every non-faulted state. -/
def Obligations.PinLevelDrivesThePinAndLatchesOnChange : Prop :=
  ∀ (p : Pin) (l : Bool) (s : State), s.fault = 0#8 →
    encode (.evPinLevel p l) = mkLabel 0x01 p.code (if l then 1 else 0) ∧
    ∃ t, exec (.evPinLevel p l) s = .next t ∧ t = { s with pin := t.pin, pend := t.pend } ∧
      t.pin.get p = l ∧ (∀ q, q ≠ p → t.pin.get q = s.pin.get q) ∧
      (t.pend.get .pc = true ↔ s.pend.get .pc = true ∨ s.pin.get p ≠ l) ∧
      (∀ src, src ≠ .pc → t.pend.get src = s.pend.get src)

/-- R157, R174, R194, R201, R263: each tick label raises its source's latch and nothing else, and changes nothing when
the source is already pending. Each completes in every non-faulted state. -/
def Obligations.TickLabelsLatchTheirSource : Prop :=
  ∀ (i : Instr) (src : Source) (w : Word) (s : State),
    (i, src, w) ∈ [(Instr.evPinChange, Source.pc, (0x02000000 : Word)), (.evFastTick, .ft, 0x04000000),
      (.evSecondTick, .st, 0x05000000), (.evTriggerTick .bat, .bt, 0x07010000),
      (.evTriggerTick .depth, .dt, 0x07000000)] →
    s.fault = 0#8 →
    encode i = w ∧
    ∃ t, exec i s = .next t ∧ t = { s with pend := t.pend } ∧ t.pend.get src = true ∧
      (∀ q, q ≠ src → t.pend.get q = s.pend.get q) ∧ (s.pend.get src = true → t = s)

/-- R136: EV_TIMER_TICK counts one tick modulo 2^W_T while the counter runs, and changes nothing else. It completes in
every non-faulted state. -/
def Obligations.TimerTickCountsWhileRunning : Prop :=
  ∀ (k : Classifier) (s : State), s.fault = 0#8 →
    encode (.evTimerTick k) = mkLabel 0x03 k.code 0 ∧
    ∃ t, exec (.evTimerTick k) s = .next t ∧ t = { s with cls := t.cls } ∧
      (∀ j, j ≠ k → t.cls.get j = s.cls.get j) ∧
      (t.cls.get k).run = (s.cls.get k).run ∧ (t.cls.get k).active = (s.cls.get k).active ∧
      ((s.cls.get k).run = true → (t.cls.get k).cnt = ((s.cls.get k).cnt + 1) % 2 ^ s.cfg.wT) ∧
      ((s.cls.get k).run = false → t = s)

/-- R137, R308: an interval of n counter ticks is read as n modulo 2^W_T, and nothing else changes. -/
def Obligations.AnIntervalIsCountedModuloTheCounterWidth : Prop :=
  ∀ (k : Classifier) (n : Nat) (s : State), s.fault = 0#8 → (s.cls.get k).run = true → (s.cls.get k).cnt = 0 →
    takeLabels (encodeAll (List.replicate n (.evTimerTick k))) s =
      .next { s with cls := s.cls.set k { s.cls.get k with cnt := n % 2 ^ s.cfg.wT } }

/-- R175: EV_RTC_SET writes one field of the clock's port, 16 bits of YEAR or the low 8 of another field, and nothing
else. It completes in every non-faulted state. For a field other than YEAR a value of 256 or more is carried by no label
(its word is ILLEGAL_OP, R86); that `exec` keeps the low 8 bits of such a term is the model's choice (assumption log 14). -/
def Obligations.RtcSetWritesOneFieldOfThePort : Prop :=
  ∀ (fld : CalField) (v : BitVec 16) (s : State), s.fault = 0#8 →
    encode (.evRtcSet fld v) = mkLabel 0x06 fld.code v ∧
    ∃ t, exec (.evRtcSet fld v) s = .next t ∧ t = { s with rtc := t.rtc } ∧
      calGet t.rtc fld = (if fld = .year then v else (v.setWidth 8).setWidth 16) ∧
      (∀ g, g ≠ fld → calGet t.rtc g = calGet s.rtc g)

/-! ### DISPATCH and its handlers -/

/-- R264, R265: in a non-faulted state DISPATCH is blocked exactly when the source is not pending, or a busy-wait is on
and its priority is not above FT's; so, with R10's priorities, PC and FT never run inside the busy-wait. -/
def Obligations.DispatchIsBlockedExactlyWhenNotPendingOrDeferred : Prop :=
  ∀ (src : Source) (s : State), s.fault = 0#8 →
    ((∃ r, exec (.dispatch src) s = .refused r) ↔
      (s.pend.get src = false ∨ (s.fst ≠ .idle ∧ s.cfg.prio.get src ≤ s.cfg.prio.get .ft))) ∧
    (s.cfg.Ok → s.fst ≠ .idle → (src = .pc ∨ src = .ft) → ∃ r, exec (.dispatch src) s = .refused r)

/-- R150, R151, R131: the PC handler records all three levels and classifies, inclusively at both bounds, exactly the
signals whose level changed. DISPATCH PC completes whenever it is enabled. -/
def Obligations.PinChangeHandlerRecordsAndClassifies : Prop :=
  ∀ s : State, s.fault = 0#8 → s.pend.get .pc = true → (s.fst = .idle ∨ s.cfg.prio.get .ft < s.cfg.prio.get .pc) →
    encode (.dispatch .pc) = 0x20000000 ∧
    ∃ t, exec (.dispatch .pc) s = .next t ∧
      t = { s with last := t.last, cls := t.cls, pend := t.pend } ∧
      t.last = s.pin ∧
      (s.pin.get .wps = s.last.get .wps → t.cls.get .water = s.cls.get .water) ∧
      (s.pin.get .wps ≠ s.last.get .wps → (t.cls.get .water).cnt = 0 ∧ (t.cls.get .water).run = true ∧
        ((t.cls.get .water).active = true ↔
          s.cfg.lo.get .water ≤ (s.cls.get .water).cnt ∧ (s.cls.get .water).cnt ≤ s.cfg.hi.get .water)) ∧
      (s.pin.get .net = s.last.get .net → t.cls.get .net = s.cls.get .net) ∧
      (s.pin.get .net ≠ s.last.get .net → (t.cls.get .net).cnt = 0 ∧ (t.cls.get .net).run = true ∧
        ((t.cls.get .net).active = true ↔
          s.cfg.lo.get .net ≤ (s.cls.get .net).cnt ∧ (s.cls.get .net).cnt ≤ s.cfg.hi.get .net)) ∧
      t.pend.get .pc = false ∧ (∀ q, q ≠ .pc → t.pend.get q = s.pend.get q)

/-- R152: a PC handler run in which no level differs from its last-known level changes no state but its own latch. -/
def Obligations.SpuriousPinChangeChangesNothing : Prop :=
  ∀ s : State, s.fault = 0#8 → s.pend.get .pc = true → (s.fst = .idle ∨ s.cfg.prio.get .ft < s.cfg.prio.get .pc) →
    s.last = s.pin →
    exec (.dispatch .pc) s = .next { s with pend := s.pend.set .pc false }

/-- R153: a signal that changes and changes back between two handler runs leaves no trace: the state after the run is
the state before the first change. -/
def Obligations.APinThatReturnsBetweenRunsIsNotSeen : Prop :=
  ∀ (p : Pin) (s : State), s.fault = 0#8 → s.fst = .idle → s.pend.get .pc = false → s.last = s.pin →
    takeLabels (encodeAll [.evPinLevel p (!(s.pin.get p)), .evPinLevel p (s.pin.get p), .dispatch .pc]) s = .next s

/-- R132: with LO above HI a classification never yields active; with LO = 0 every count up to HI does. -/
def Obligations.ClassificationAtExtremeBounds : Prop :=
  ∀ (k : Classifier) (s : State),
    (s.cfg.hi.get k < s.cfg.lo.get k → ((classify k s).cls.get k).active = false) ∧
    (s.cfg.lo.get k = 0 → (((classify k s).cls.get k).active = true ↔ (s.cls.get k).cnt ≤ s.cfg.hi.get k)) ∧
    (s.cfg.lo.get k = 0 → s.cfg.hi.get k = 2 ^ s.cfg.wT - 1 → (s.cls.get k).cnt < 2 ^ s.cfg.wT →
      ((classify k s).cls.get k).active = true)

/-- R138, R48: what can change a classifier: a counter tick its count, the host its flag, and the PC handler, on a
transition of the classifier's own signal, all of it. -/
def Obligations.ClassifiersChangeOnlyByTheirWriters : Prop :=
  ∀ (i : Instr) (s t : State) (k : Classifier), exec i s = .next t → t.cls.get k ≠ s.cls.get k →
    (i = .evTimerTick k ∧ (s.cls.get k).run = true ∧ t.cls.get k = { s.cls.get k with cnt := (t.cls.get k).cnt }) ∨
    (i = .hcClearFlag (match k with | .water => .water | .net => .net) ∧
      t.cls.get k = { s.cls.get k with active := false }) ∨
    (i = .dispatch .pc ∧ (match k with | .water => s.pin.wps ≠ s.last.wps | .net => s.pin.net ≠ s.last.net) ∧
      (t.cls.get k).cnt = 0 ∧ (t.cls.get k).run = true ∧
      ((t.cls.get k).active = true ↔ s.cfg.lo.get k ≤ (s.cls.get k).cnt ∧ (s.cls.get k).cnt ≤ s.cfg.hi.get k))

/-- R170, R171: the ST handler shifts the latches, reads the clock whole, and sets `midnight` exactly when DAY differs.
DISPATCH ST completes whenever it is enabled, inside a busy-wait too. -/
def Obligations.SecondTickHandlerShiftsAndComparesDay : Prop :=
  ∀ s : State, s.fault = 0#8 → s.pend.get .st = true → (s.fst = .idle ∨ s.cfg.prio.get .ft < s.cfg.prio.get .st) →
    encode (.dispatch .st) = 0x20020000 ∧
    ∃ t, exec (.dispatch .st) s = .next t ∧
      t = { s with cal := t.cal, midnight := t.midnight, pend := t.pend } ∧
      t.cal.prev = s.cal.cur ∧ t.cal.cur = s.rtc ∧
      (t.midnight = true ↔ s.midnight = true ∨ s.cal.cur.day ≠ s.rtc.day) ∧
      t.pend.get .st = false ∧ (∀ q, q ≠ .st → t.pend.get q = s.pend.get q)

/-- R35, R172: only the ST handler, on a change of DAY, sets `midnight`, and only HC_CLEAR_FLAG MIDNIGHT clears it. -/
def Obligations.MidnightIsSetByRolloverAndClearedByTheHost : Prop :=
  ∀ (i : Instr) (s t : State), exec i s = .next t →
    (s.midnight = false → t.midnight = true → i = .dispatch .st ∧ s.cal.cur.day ≠ s.rtc.day) ∧
    (s.midnight = true → t.midnight = false → i = .hcClearFlag .midnight)

/-- R192, R198: the FT handler converts x if it is not full, else y if it is not full, else touches nothing; needing the
front-end while it is held is AFE_CONFLICT, and the latch keeps its value then. -/
def Obligations.FastTickHandlerStartsTheFirstChannelNotFull : Prop :=
  ∀ s : State, s.fault = 0#8 → s.pend.get .ft = true → s.fst = .idle →
    encode (.dispatch .ft) = 0x20010000 ∧
    ((s.buf.get .x).full = false → s.owner = .none →
      exec (.dispatch .ft) s = .next { s with
        pend := s.pend.set .ft false, owner := .fast, fst := .waitX, afe := ⟨.x, .refHigh, true, true, s.afe.res⟩ }) ∧
    ((s.buf.get .x).full = true → (s.buf.get .y).full = false → s.owner = .none →
      exec (.dispatch .ft) s = .next { s with
        pend := s.pend.set .ft false, owner := .fast, fst := .waitY, afe := ⟨.y, .refHigh, true, true, s.afe.res⟩ }) ∧
    ((s.buf.get .x).full = true → (s.buf.get .y).full = true →
      exec (.dispatch .ft) s = .next { s with pend := s.pend.set .ft false }) ∧
    ((s.buf.get .x).full = false ∨ (s.buf.get .y).full = false → s.owner ≠ .none →
      exec (.dispatch .ft) s = .fault (.afeConflict { s with fault := 2, faultLabel := 0x20010000 }))

/-- R200, R203: the BT and DT handlers take the front-end and start the conversion, whatever the buffer's full flag;
a held front-end is AFE_CONFLICT. -/
def Obligations.TriggerHandlersStartAConversionOrConflict : Prop :=
  ∀ (src : Source) (c : TrigChannel) (own : Owner) (sel : AfeSel) (w : Word) (s : State),
    (src, c, own, sel, w) ∈ [(Source.bt, TrigChannel.bat, Owner.bat, AfeSel.bat, (0x20030000 : Word)),
      (.dt, .depth, .depth, .depth, 0x20040000)] →
    s.fault = 0#8 → s.pend.get src = true → (s.fst = .idle ∨ s.cfg.prio.get .ft < s.cfg.prio.get src) →
    encode (.dispatch src) = w ∧
    (s.owner = .none → exec (.dispatch src) s = .next { s with
      pend := s.pend.set src false, owner := own, tst := s.tst.set c .triggered,
      afe := ⟨sel, s.cfg.refTrig.get c, true, true, s.afe.res⟩ }) ∧
    (s.owner ≠ .none → exec (.dispatch src) s = .fault (.afeConflict { s with fault := 2, faultLabel := w }))

/-- R202, R205: the BC and DC handlers append the result unless the buffer is full, return the trigger to IDLE and free
the front-end, whose outputs they leave alone. Every other sample keeps its value. -/
def Obligations.CompletionHandlersAppendAndFreeTheFrontEnd : Prop :=
  ∀ (src : Source) (c : TrigChannel) (ch : Channel) (w : Word) (s : State),
    (src, c, ch, w) ∈ [(Source.bc, TrigChannel.bat, Channel.bat, (0x20050000 : Word)), (.dc, .depth, .depth, 0x20060000)] →
    s.fault = 0#8 → s.pend.get src = true → (s.fst = .idle ∨ s.cfg.prio.get .ft < s.cfg.prio.get src) → s.mem.wf →
    ((s.buf.get ch).full = true ∨ (s.buf.get ch).len.toNat < s.cfg.cap.get ch) →
    encode (.dispatch src) = w ∧
    ∃ t, exec (.dispatch src) s = .next t ∧
      t = { s with mem := t.mem, buf := t.buf, tst := s.tst.set c .idle, owner := .none, pend := s.pend.set src false } ∧
      ((s.buf.get ch).full = true → t.mem = s.mem ∧ t.buf = s.buf) ∧
      ((s.buf.get ch).full = false →
        t.mem.read (sampleAddr ch (s.buf.get ch).len) = s.afe.res ∧
        (∀ a, a ≠ sampleAddr ch (s.buf.get ch).len → t.mem.read a = s.mem.read a) ∧
        (t.buf.get ch).len = (s.buf.get ch).len + 1 ∧
        ((t.buf.get ch).full = true ↔ ((s.buf.get ch).len + 1).toNat = s.cfg.cap.get ch) ∧
        (∀ d, d ≠ ch → t.buf.get d = s.buf.get d))

/-! ### EV_AFE_DONE -/

/-- R195: a completion with no conversion in flight is blocked; one for a triggered conversion keeps its result and
latches that channel's completion source. The last clause, `owner` = NONE, is no state of R46 and is the model's choice
(assumption log 9). -/
def Obligations.CompletionOfATriggeredConversionLatchesItsSource : Prop :=
  ∀ (v : Sample) (s : State), s.fault = 0#8 →
    encode (.evAfeDone v) = mkLabel 0x08 0 v ∧
    (s.afe.conv = false → exec (.evAfeDone v) s = .refused .blockedNoConversion) ∧
    (s.afe.conv = true → s.owner = .bat → exec (.evAfeDone v) s = .next { s with
      afe := { s.afe with conv := false, res := v }, pend := s.pend.set .bc true }) ∧
    (s.afe.conv = true → s.owner = .depth → exec (.evAfeDone v) s = .next { s with
      afe := { s.afe with conv := false, res := v }, pend := s.pend.set .dc true }) ∧
    (s.afe.conv = true → s.owner = .none → exec (.evAfeDone v) s = .next { s with
      afe := { s.afe with conv := false, res := v } })

/-- R196: the continuation after the x conversion stops the converter, appends to x, restores the reference, then starts
the y conversion or returns. Every other sample keeps its value. -/
def Obligations.CompletionOfTheXConversionAppendsThenGoesToY : Prop :=
  ∀ (v : Sample) (s : State), s.fault = 0#8 → s.afe.conv = true → s.owner = .fast → s.fst = .waitX → s.mem.wf →
    ((s.buf.get .x).full = true ∨ (s.buf.get .x).len.toNat < s.cfg.cap.get .x) →
    ∃ t, exec (.evAfeDone v) s = .next t ∧
      t = { s with mem := t.mem, buf := t.buf, fst := t.fst, owner := t.owner, afe := t.afe } ∧
      ((s.buf.get .x).full = true → t.mem = s.mem ∧ t.buf = s.buf) ∧
      ((s.buf.get .x).full = false →
        t.mem.read (sampleAddr .x (s.buf.get .x).len) = v ∧
        (∀ a, a ≠ sampleAddr .x (s.buf.get .x).len → t.mem.read a = s.mem.read a) ∧
        (t.buf.get .x).len = (s.buf.get .x).len + 1 ∧
        ((t.buf.get .x).full = true ↔ ((s.buf.get .x).len + 1).toNat = s.cfg.cap.get .x) ∧
        (∀ d, d ≠ .x → t.buf.get d = s.buf.get d)) ∧
      ((s.buf.get .y).full = false → t.fst = .waitY ∧ t.owner = .fast ∧ t.afe = ⟨.y, .refHigh, true, true, v⟩) ∧
      ((s.buf.get .y).full = true →
        t.fst = .idle ∧ t.owner = .none ∧ t.afe = ⟨s.afe.chsel, .refDefault, false, false, v⟩)

/-- R196: the continuation after the y conversion stops the converter, appends to y, restores the reference and returns.
Every other sample keeps its value. -/
def Obligations.CompletionOfTheYConversionAppendsAndReturns : Prop :=
  ∀ (v : Sample) (s : State), s.fault = 0#8 → s.afe.conv = true → s.owner = .fast → s.fst = .waitY → s.mem.wf →
    ((s.buf.get .y).full = true ∨ (s.buf.get .y).len.toNat < s.cfg.cap.get .y) →
    ∃ t, exec (.evAfeDone v) s = .next t ∧
      t = { s with mem := t.mem, buf := t.buf, fst := .idle, owner := .none,
                   afe := ⟨s.afe.chsel, .refDefault, false, false, v⟩ } ∧
      ((s.buf.get .y).full = true → t.mem = s.mem ∧ t.buf = s.buf) ∧
      ((s.buf.get .y).full = false →
        t.mem.read (sampleAddr .y (s.buf.get .y).len) = v ∧
        (∀ a, a ≠ sampleAddr .y (s.buf.get .y).len → t.mem.read a = s.mem.read a) ∧
        (t.buf.get .y).len = (s.buf.get .y).len + 1 ∧
        ((t.buf.get .y).full = true ↔ ((s.buf.get .y).len + 1).toNat = s.cfg.cap.get .y) ∧
        (∀ d, d ≠ .y → t.buf.get d = s.buf.get d))

/-- R206, R310: nothing but an EV_AFE_DONE ends the busy-wait. -/
def Obligations.OnlyACompletionEndsTheBusyWait : Prop :=
  ∀ (i : Instr) (s t : State), exec i s = .next t → s.fst ≠ .idle → t.fst ≠ s.fst →
    (∃ v, i = .evAfeDone v) ∧ s.owner = .fast ∧ s.afe.conv = true

/-- R197, R209: with both buffers not full, one fast tick samples x and then y: the x sample is stored, and y untouched,
before the y conversion's result is taken. -/
def Obligations.AFastTickSamplesXStrictlyBeforeY : Prop :=
  ∀ (v1 v2 : Sample) (s : State), s.Inv → s.fault = 0#8 → s.fst = .idle → s.owner = .none →
    (s.buf.get .x).full = false → (s.buf.get .y).full = false →
    ∃ u t, takeLabels (encodeAll [.evFastTick, .dispatch .ft, .evAfeDone v1]) s = .next u ∧
      u.mem.read (sampleAddr .x (s.buf.get .x).len) = v1 ∧ u.fst = .waitY ∧
      (∀ i, u.mem.read (sampleAddr .y i) = s.mem.read (sampleAddr .y i)) ∧ u.buf.get .y = s.buf.get .y ∧
      takeLabels (encodeAll [.evAfeDone v2]) u = .next t ∧
      t.mem.read (sampleAddr .x (s.buf.get .x).len) = v1 ∧ t.mem.read (sampleAddr .y (s.buf.get .y).len) = v2 ∧
      (∀ a, a ≠ sampleAddr .x (s.buf.get .x).len → a ≠ sampleAddr .y (s.buf.get .y).len → t.mem.read a = s.mem.read a) ∧
      (t.buf.get .x).len.toNat = (s.buf.get .x).len.toNat + 1 ∧ (t.buf.get .y).len.toNat = (s.buf.get .y).len.toNat + 1 ∧
      t = { s with mem := t.mem, buf := t.buf, pend := s.pend.set .ft false, afe := ⟨.y, .refDefault, false, false, v2⟩ }

/-- R203, R204, R316: a whole trigger cycle always takes and frees the front-end; its result is stored when the buffer
is not full and dropped when it is. -/
def Obligations.ATriggerCycleStoresOrDropsItsResult : Prop :=
  ∀ (c : TrigChannel) (ch : Channel) (src : Source) (v : Sample) (s : State),
    (c, ch, src) ∈ [(TrigChannel.bat, Channel.bat, Source.bt), (.depth, .depth, .dt)] →
    s.Inv → s.fault = 0#8 → s.fst = .idle → s.owner = .none →
    ∃ t, takeLabels (encodeAll (Pseudo.trigRun c v).expand) s = .next t ∧
      t = { s with mem := t.mem, buf := t.buf, pend := s.pend.set src false,
                   afe := ⟨chselOf ch, s.cfg.refTrig.get c, true, false, v⟩ } ∧
      ((s.buf.get ch).full = true → t.mem = s.mem ∧ t.buf = s.buf) ∧
      ((s.buf.get ch).full = false →
        t.mem.read (sampleAddr ch (s.buf.get ch).len) = v ∧
        (∀ a, a ≠ sampleAddr ch (s.buf.get ch).len → t.mem.read a = s.mem.read a) ∧
        (t.buf.get ch).len.toNat = (s.buf.get ch).len.toNat + 1 ∧
        (∀ d, d ≠ ch → t.buf.get d = s.buf.get d))

/-- R204: a trigger's state goes to TRIGGERED at its trigger handler and to IDLE at its completion handler, and never
otherwise. -/
def Obligations.TriggerStatesMoveOnlyAtTheirHandlers : Prop :=
  ∀ (i : Instr) (s t : State) (c : TrigChannel), exec i s = .next t → t.tst.get c ≠ s.tst.get c →
    (t.tst.get c = .triggered ∧ i = .dispatch (match c with | .bat => .bt | .depth => .dt) ∧ s.owner = .none) ∨
    (t.tst.get c = .idle ∧ i = .dispatch (match c with | .bat => .bc | .depth => .dc))

/-! ### The sample buffers (40_buffer.md) -/

/-- R110, R111, R112: `tryAppend` on a full buffer changes nothing and returns 0; otherwise it stores at index len,
counts, sets full exactly at the capacity and returns 1. No other buffer and no other sample changes. -/
def Obligations.TryAppendStoresAtTheLengthOrDrops : Prop :=
  ∀ (ch : Channel) (v : Sample) (s : State),
    ((s.buf.get ch).full = true → tryAppend ch v s = .ok (s, false)) ∧
    (s.mem.wf → (s.buf.get ch).full = false → (s.buf.get ch).len.toNat < s.cfg.cap.get ch → s.cfg.cap.get ch ≤ 65535 →
      ∃ t, tryAppend ch v s = .ok (t, true) ∧ t = { s with mem := t.mem, buf := t.buf } ∧
        t.mem.read (sampleAddr ch (s.buf.get ch).len) = v ∧
        (∀ a, a ≠ sampleAddr ch (s.buf.get ch).len → t.mem.read a = s.mem.read a) ∧
        (t.buf.get ch).len.toNat = (s.buf.get ch).len.toNat + 1 ∧
        ((t.buf.get ch).full = true ↔ (s.buf.get ch).len.toNat + 1 = s.cfg.cap.get ch) ∧
        (∀ d, d ≠ ch → t.buf.get d = s.buf.get d))

/-- R115: from an empty buffer, appending as many samples as the capacity fills it, in order; one more is dropped. -/
def Obligations.CapacityManyAppendsFillABuffer : Prop :=
  ∀ (ch : Channel) (vs : List Sample) (s : State), s.cfg.Ok → s.mem.wf → s.buf.get ch = ⟨0, false⟩ →
    vs.length = s.cfg.cap.get ch →
    ∃ t, appendAll ch vs s = .ok t ∧ (t.buf.get ch).full = true ∧ (t.buf.get ch).len.toNat = s.cfg.cap.get ch ∧
      (∀ j (h : j < vs.length), t.mem.read (sampleAddr ch (BitVec.ofNat 16 j)) = vs[j]) ∧
      (∀ v, tryAppend ch v t = .ok (t, false))

/-- R115: between two host resets of a buffer its length never decreases, and a label adds at most one sample. -/
def Obligations.LengthsNeverDecreaseBetweenHostResets : Prop :=
  ∀ (i : Instr) (s t : State) (ch : Channel), s.cfg.Ok → exec i s = .next t → i ≠ .hcResetBuffer ch →
    (t.buf.get ch).len.toNat = (s.buf.get ch).len.toNat ∨
    ((t.buf.get ch).len.toNat = (s.buf.get ch).len.toNat + 1 ∧ (s.buf.get ch).full = false)

/-- R22, R117: only its owning handler writes a channel's samples, and only at index len of a buffer that is not full. -/
def Obligations.SamplesAreWrittenOnlyByTheOwningHandler : Prop :=
  ∀ (i : Instr) (s t : State) (a : Nat), exec i s = .next t → t.mem.read a ≠ s.mem.read a →
    ∃ ch, a = sampleAddr ch (s.buf.get ch).len ∧ (s.buf.get ch).full = false ∧
      (s.buf.get ch).len.toNat < s.cfg.cap.get ch ∧
      ((ch = .bat ∧ i = .dispatch .bc) ∨ (ch = .depth ∧ i = .dispatch .dc) ∨
        ((ch = .x ∨ ch = .y) ∧ s.owner = .fast ∧ ∃ v, i = .evAfeDone v))

/-- Two sample storages in canonical form that read the same everywhere are equal (assumption log 4). -/
def Obligations.CanonicalStoragesAreEqualWhenTheyReadEqual : Prop :=
  ∀ m n : Memory, m.wf → n.wf → (∀ a, m.read a = n.read a) → m = n

/-! ### Host commands (45_host.md) -/

/-- R231, R284: HC_READ_SAMPLE reads a stored sample below the capacity, valid or stale, and faults with BAD_INDEX at or
above it; it is blocked during the busy-wait. -/
def Obligations.ReadSampleReadsBelowCapacityAndFaultsAbove : Prop :=
  ∀ (ch : Channel) (idx : BitVec 16) (s : State), s.fault = 0#8 →
    encode (.hcReadSample ch idx) = mkLabel 0x40 ch.code idx ∧
    (s.fst = .idle → idx.toNat < s.cfg.cap.get ch →
      exec (.hcReadSample ch idx) s = .next { s with hrd := s.mem.read (sampleAddr ch idx) }) ∧
    (s.fst = .idle → s.cfg.cap.get ch ≤ idx.toNat →
      exec (.hcReadSample ch idx) s = .fault (.badIndex { s with fault := 3, faultLabel := mkLabel 0x40 ch.code idx })) ∧
    (s.fst ≠ .idle → exec (.hcReadSample ch idx) s = .refused .blockedBusyWait)

/-- R232, R233, R235: the other operand reads put their value, zero-extended, in `hrd` and change nothing else. -/
def Obligations.LengthCapacityAndCalendarReadsWriteOnlyHrd : Prop :=
  ∀ s : State, s.fault = 0#8 → s.fst = .idle →
    (∀ ch, encode (.hcReadLength ch) = mkLabel 0x41 ch.code 0 ∧
      exec (.hcReadLength ch) s = .next { s with hrd := (s.buf.get ch).len }) ∧
    (∀ ch, encode (.hcReadCapacity ch) = mkLabel 0x42 ch.code 0 ∧
      ∃ t, exec (.hcReadCapacity ch) s = .next t ∧ t = { s with hrd := t.hrd } ∧
        (s.cfg.cap.get ch ≤ 65535 → t.hrd.toNat = s.cfg.cap.get ch)) ∧
    (∀ snap fld, encode (.hcReadCalendar snap fld) =
        mkLabel 0x44 (BitVec.ofNat 8 ((match snap with | .prev => 0 | .cur => 8) + fld.code.toNat)) 0 ∧
      ∃ t, exec (.hcReadCalendar snap fld) s = .next t ∧ t = { s with hrd := t.hrd } ∧
        t.hrd.toNat =
          (let c := match snap with | .prev => s.cal.prev | .cur => s.cal.cur
           match fld with
           | .year => c.year.toNat
           | .month => c.month.toNat
           | .day => c.day.toNat
           | .hour => c.hour.toNat
           | .minute => c.minute.toNat
           | .second => c.second.toNat))

/-- R234, R44: HC_READ_STATUS assembles the sixteen bits of the STATUS view in `hrd`; reading clears nothing. -/
def Obligations.ReadStatusAssemblesTheStatusView : Prop :=
  ∀ s : State, s.fault = 0#8 → s.fst = .idle →
    encode .hcReadStatus = 0x43000000 ∧
    ∃ t, exec .hcReadStatus s = .next t ∧ t = { s with hrd := t.hrd } ∧
      t.hrd.getLsbD 0 = s.midnight ∧
      t.hrd.getLsbD 1 = (s.cls.get .water).active ∧ t.hrd.getLsbD 2 = (s.cls.get .net).active ∧
      t.hrd.getLsbD 3 = (s.buf.get .depth).full ∧ t.hrd.getLsbD 4 = (s.buf.get .bat).full ∧
      t.hrd.getLsbD 5 = (s.buf.get .x).full ∧ t.hrd.getLsbD 6 = (s.buf.get .y).full ∧
      t.hrd.getLsbD 7 = false ∧
      t.hrd.getLsbD 8 = s.last.get .wps ∧ t.hrd.getLsbD 9 = s.last.get .net ∧ t.hrd.getLsbD 10 = s.last.get .aux ∧
      (t.hrd.getLsbD 11 = true ↔ s.tst.get .bat = .triggered) ∧
      (t.hrd.getLsbD 12 = true ↔ s.tst.get .depth = .triggered) ∧
      t.hrd.getLsbD 13 = false ∧ t.hrd.getLsbD 14 = false ∧ t.hrd.getLsbD 15 = false

/-- R236: HC_RESET_BUFFER clears one buffer's length and full flag in one step; every stored sample and all else stay. -/
def Obligations.ResetBufferClearsLengthAndFullOnly : Prop :=
  ∀ (ch : Channel) (s : State), s.fault = 0#8 → s.fst = .idle →
    encode (.hcResetBuffer ch) = mkLabel 0x45 ch.code 0 ∧
    ∃ t, exec (.hcResetBuffer ch) s = .next t ∧ t = { s with buf := t.buf } ∧
      (t.buf.get ch).len = 0 ∧ (t.buf.get ch).full = false ∧ (∀ d, d ≠ ch → t.buf.get d = s.buf.get d) ∧
      (∀ a, t.mem.read a = s.mem.read a)

/-- R237: HC_CLEAR_FLAG clears exactly the flag it names. -/
def Obligations.ClearFlagClearsTheNamedFlagOnly : Prop :=
  ∀ s : State, s.fault = 0#8 → s.fst = .idle →
    (∀ f, encode (.hcClearFlag f) = mkLabel 0x46 f.code 0) ∧
    exec (.hcClearFlag .midnight) s = .next { s with midnight := false } ∧
    exec (.hcClearFlag .water) s = .next { s with cls := s.cls.set .water { s.cls.get .water with active := false } } ∧
    exec (.hcClearFlag .net) s = .next { s with cls := s.cls.set .net { s.cls.get .net with active := false } }

/-- R230: a host command is blocked exactly when a fault is recorded or the fast sampler is in its busy-wait. -/
def Obligations.HostCommandsAreBlockedExactlyInFaultOrBusyWait : Prop :=
  ∀ (i : Instr) (s : State), i.labelClass = .host →
    ((∃ r, exec i s = .refused r) ↔ ¬ (s.fault = 0#8 ∧ s.fst = .idle))

/-- R238: a host command changes nothing but `hrd`, a flag it clears, or a buffer it empties. -/
def Obligations.TheHostOnlyReadsClearsAndResets : Prop :=
  ∀ (i : Instr) (s t : State), i.labelClass = .host → exec i s = .next t →
    t = { s with hrd := t.hrd, midnight := t.midnight, cls := t.cls, buf := t.buf } ∧
    (t.midnight = true → s.midnight = true) ∧
    (∀ k, t.cls.get k = { s.cls.get k with active := (t.cls.get k).active } ∧
      ((t.cls.get k).active = true → (s.cls.get k).active = true)) ∧
    (∀ ch, t.buf.get ch = s.buf.get ch ∨ t.buf.get ch = ⟨0, false⟩) ∧
    ((∃ ch, t.buf.get ch ≠ s.buf.get ch) ∨ (∃ k, t.cls.get k ≠ s.cls.get k) ∨ t.midnight ≠ s.midnight → t.hrd = s.hrd)

/-- R66: a second identical host command changes nothing more. -/
def Obligations.HostCommandsAreIdempotent : Prop :=
  ∀ (i : Instr) (s t : State), i.labelClass = .host → exec i s = .next t → exec i t = .next t

/-! ### Whole-machine rules -/

/-- R48, R286: an environment label other than EV_AFE_DONE changes nothing but its input ports, the two counts and the
pending latches, which it only raises. -/
def Obligations.TheEnvironmentChangesOnlyPortsCountsAndLatches : Prop :=
  ∀ (i : Instr) (s t : State), i.labelClass = .env → (∀ v, i ≠ .evAfeDone v) → exec i s = .next t →
    t = { s with pin := t.pin, rtc := t.rtc, cls := t.cls, pend := t.pend } ∧
    (∀ k, t.cls.get k = { s.cls.get k with cnt := (t.cls.get k).cnt }) ∧
    (∀ src, s.pend.get src = true → t.pend.get src = true) ∧
    t.pend.get .bc = s.pend.get .bc ∧ t.pend.get .dc = s.pend.get .dc

/-- R48, R261, R263, R264: only DISPATCH of a source clears its latch, and each latch is raised only by its own label. -/
def Obligations.LatchesChangeOnlyByTheirWriters : Prop :=
  ∀ (i : Instr) (s t : State) (src : Source), exec i s = .next t →
    (s.pend.get src = true → t.pend.get src = false → i = .dispatch src) ∧
    (s.pend.get src = false → t.pend.get src = true →
      match src with
      | .pc => i = .evPinChange ∨ ∃ p l, i = .evPinLevel p l ∧ s.pin.get p ≠ l
      | .ft => i = .evFastTick
      | .st => i = .evSecondTick
      | .bt => i = .evTriggerTick .bat
      | .dt => i = .evTriggerTick .depth
      | .bc => ∃ v, i = .evAfeDone v ∧ s.owner = .bat
      | .dc => ∃ v, i = .evAfeDone v ∧ s.owner = .depth)

/-- R270: the order of two raises never matters. -/
def Obligations.RaisesCommute : Prop :=
  ∀ (i j : Instr) (s : State),
    (i = .evPinChange ∨ i = .evFastTick ∨ i = .evSecondTick ∨ ∃ c, i = .evTriggerTick c) →
    (j = .evPinChange ∨ j = .evFastTick ∨ j = .evSecondTick ∨ ∃ c, j = .evTriggerTick c) →
    takeLabels (encodeAll [i, j]) s = takeLabels (encodeAll [j, i]) s

/-- R266, R269: outside the busy-wait, the PC or the ST handler and any other handler but FT give the same state in
either order. -/
def Obligations.DisjointHandlersGiveTheSameStateInEitherOrder : Prop :=
  ∀ (a b : Source) (s t : State), (a = .pc ∨ a = .st) → b ≠ a → b ≠ .ft → s.fst = .idle →
    (takeLabels (encodeAll [.dispatch a, .dispatch b]) s = .next t ↔
      takeLabels (encodeAll [.dispatch b, .dispatch a]) s = .next t)

/-! ### Reset, invariants and good ends -/

/-- R45: the reset table, for every choice of the parameters. -/
def Obligations.ResetHoldsTheResetTable : Prop :=
  ∀ cfg : Config, let s := State.resetWith cfg
    s.cfg = cfg ∧
    (∀ ch i, s.mem.read (sampleAddr ch i) = 0 ∧ (s.buf.get ch).len = 0 ∧ (s.buf.get ch).full = false) ∧
    (∀ k, (s.cls.get k).cnt = 0 ∧ (s.cls.get k).run = cfg.tmrRunInit ∧ (s.cls.get k).active = false) ∧
    (∀ p, s.last.get p = false ∧ s.pin.get p = cfg.pinInit.get p) ∧
    s.cal.prev = cfg.calInit ∧ s.cal.cur = cfg.calInit ∧ s.rtc = cfg.rtcInit ∧ s.midnight = false ∧
    s.fst = .idle ∧ (∀ c, s.tst.get c = .idle) ∧ s.owner = .none ∧
    s.afe = ⟨.none, .refDefault, false, false, 0⟩ ∧ (∀ src, s.pend.get src = false) ∧
    s.hrd = 0 ∧ s.fault = 0 ∧ s.faultLabel = 0

/-- R301: at reset every DISPATCH and EV_AFE_DONE is blocked, and nothing else is. -/
def Obligations.ResetBlocksExactlyDispatchAndCompletion : Prop :=
  ∀ (cfg : Config) (i : Instr),
    (∃ r, exec i (State.resetWith cfg) = .refused r) ↔ (i.labelClass = .int ∨ ∃ v, i = .evAfeDone v)

/-- R46: the reset state meets the invariants, for parameters in their domains. -/
def Obligations.ResetMeetsTheInvariants : Prop :=
  ∀ cfg : Config, cfg.Ok → (State.resetWith cfg).Inv ∧ (State.resetWith cfg).GoodEnd

/-- R46: every step keeps the invariants, from every state that meets them. -/
def Obligations.EveryStepKeepsTheInvariants : Prop :=
  ∀ s t : State, s.Inv → step s = .next t → t.Inv

/-- R306, R271: from every non-faulted state that meets the invariants of R46, some choice of at most thirteen block-issued DISPATCHes and
front-end completions leads to a good end. -/
def Obligations.AGoodEndIsAlwaysReachable : Prop :=
  ∀ s : State, s.Inv → s.fault = 0#8 →
    ∃ (is : List Instr) (t : State), is.length ≤ 13 ∧
      (∀ i ∈ is, (∃ src, i = .dispatch src) ∨ ∃ v, i = .evAfeDone v) ∧ SafeRun (encodeAll is) s t

/-! ### Enumeration codes (00_scope.md) -/

/-- R17: the code of every member of every operand and state set, with WATER driven by WPS and NET by NET, and
`chsel(ch) = ch + 1`. -/
def Obligations.EnumerationCodesAreAsListed : Prop :=
  ([Channel.depth, .bat, .x, .y].map fun c => c.code.toNat) = [0, 1, 2, 3] ∧
  ([Classifier.water, .net].map fun k => k.code.toNat) = [0, 1] ∧
  ([Pin.wps, .net, .aux].map fun p => p.code.toNat) = [0, 1, 2] ∧
  ([Flag.midnight, .water, .net].map fun f => f.code.toNat) = [0, 1, 2] ∧
  ([Source.pc, .ft, .st, .bt, .dt, .bc, .dc].map fun s => s.code.toNat) = [0, 1, 2, 3, 4, 5, 6] ∧
  ([CalField.year, .month, .day, .hour, .minute, .second].map fun g => g.code.toNat) = [0, 1, 2, 3, 4, 5] ∧
  ([FastState.idle, .waitX, .waitY].map fun f => f.code.toNat) = [0, 1, 2] ∧
  ([TrigState.idle, .triggered].map fun t => t.code.toNat) = [0, 1] ∧
  ([Owner.none, .fast, .bat, .depth].map fun o => o.code.toNat) = [0, 1, 2, 3] ∧
  ([AfeSel.none, .depth, .bat, .x, .y].map fun c => c.code.toNat) = [0, 1, 2, 3, 4] ∧
  ([AfeRef.refDefault, .refHigh].map fun r => (refCode r).toNat) = [0, 1] ∧
  pinClassifier .wps = some .water ∧ pinClassifier .net = some .net ∧
  (∀ ch, (chselOf ch).code.toNat = ch.code.toNat + 1)
end

