-- ==== Sys2Proof/Laws/Banks.lean ====
section
/-! SUPPORT. The small lemmas of the one-field-a-member records (Config.lean): reading after writing, and equality. -/

namespace Sys2Proof

theorem ByChannel.get_set {α : Type} (b : ByChannel α) (i j : Channel) (v : α) :
    (b.set i v).get j = if j = i then v else b.get j := by
  cases i <;> cases j <;> rfl

@[simp] theorem ByChannel.get_set_same {α : Type} (b : ByChannel α) (i : Channel) (v : α) : (b.set i v).get i = v := by
  cases i <;> rfl

theorem ByChannel.get_set_ne {α : Type} (b : ByChannel α) {i j : Channel} (v : α) (h : j ≠ i) : (b.set i v).get j = b.get j := by
  rw [ByChannel.get_set, if_neg h]

@[simp] theorem ByChannel.set_get {α : Type} (b : ByChannel α) (i : Channel) : b.set i (b.get i) = b := by
  cases i <;> rfl

@[simp] theorem ByChannel.set_set {α : Type} (b : ByChannel α) (i : Channel) (u v : α) : (b.set i u).set i v = b.set i v := by
  cases i <;> rfl

theorem ByChannel.ext_get {α : Type} {b c : ByChannel α} (h : ∀ i, b.get i = c.get i) : b = c := by
  obtain ⟨_, _, _, _⟩ := b
  obtain ⟨_, _, _, _⟩ := c
  simp only [ByChannel.mk.injEq]
  exact ⟨h .depth, h .bat, h .x, h .y⟩

theorem ByClassifier.get_set {α : Type} (b : ByClassifier α) (i j : Classifier) (v : α) :
    (b.set i v).get j = if j = i then v else b.get j := by
  cases i <;> cases j <;> rfl

@[simp] theorem ByClassifier.get_set_same {α : Type} (b : ByClassifier α) (i : Classifier) (v : α) : (b.set i v).get i = v := by
  cases i <;> rfl

theorem ByClassifier.get_set_ne {α : Type} (b : ByClassifier α) {i j : Classifier} (v : α) (h : j ≠ i) : (b.set i v).get j = b.get j := by
  rw [ByClassifier.get_set, if_neg h]

@[simp] theorem ByClassifier.set_get {α : Type} (b : ByClassifier α) (i : Classifier) : b.set i (b.get i) = b := by
  cases i <;> rfl

@[simp] theorem ByClassifier.set_set {α : Type} (b : ByClassifier α) (i : Classifier) (u v : α) : (b.set i u).set i v = b.set i v := by
  cases i <;> rfl

theorem ByClassifier.ext_get {α : Type} {b c : ByClassifier α} (h : ∀ i, b.get i = c.get i) : b = c := by
  obtain ⟨_, _⟩ := b
  obtain ⟨_, _⟩ := c
  simp only [ByClassifier.mk.injEq]
  exact ⟨h .water, h .net⟩

theorem ByPin.get_set {α : Type} (b : ByPin α) (i j : Pin) (v : α) :
    (b.set i v).get j = if j = i then v else b.get j := by
  cases i <;> cases j <;> rfl

@[simp] theorem ByPin.get_set_same {α : Type} (b : ByPin α) (i : Pin) (v : α) : (b.set i v).get i = v := by
  cases i <;> rfl

theorem ByPin.get_set_ne {α : Type} (b : ByPin α) {i j : Pin} (v : α) (h : j ≠ i) : (b.set i v).get j = b.get j := by
  rw [ByPin.get_set, if_neg h]

@[simp] theorem ByPin.set_get {α : Type} (b : ByPin α) (i : Pin) : b.set i (b.get i) = b := by
  cases i <;> rfl

@[simp] theorem ByPin.set_set {α : Type} (b : ByPin α) (i : Pin) (u v : α) : (b.set i u).set i v = b.set i v := by
  cases i <;> rfl

theorem ByPin.ext_get {α : Type} {b c : ByPin α} (h : ∀ i, b.get i = c.get i) : b = c := by
  obtain ⟨_, _, _⟩ := b
  obtain ⟨_, _, _⟩ := c
  simp only [ByPin.mk.injEq]
  exact ⟨h .wps, h .net, h .aux⟩

theorem ByTrigger.get_set {α : Type} (b : ByTrigger α) (i j : TrigChannel) (v : α) :
    (b.set i v).get j = if j = i then v else b.get j := by
  cases i <;> cases j <;> rfl

@[simp] theorem ByTrigger.get_set_same {α : Type} (b : ByTrigger α) (i : TrigChannel) (v : α) : (b.set i v).get i = v := by
  cases i <;> rfl

theorem ByTrigger.get_set_ne {α : Type} (b : ByTrigger α) {i j : TrigChannel} (v : α) (h : j ≠ i) : (b.set i v).get j = b.get j := by
  rw [ByTrigger.get_set, if_neg h]

@[simp] theorem ByTrigger.set_get {α : Type} (b : ByTrigger α) (i : TrigChannel) : b.set i (b.get i) = b := by
  cases i <;> rfl

@[simp] theorem ByTrigger.set_set {α : Type} (b : ByTrigger α) (i : TrigChannel) (u v : α) : (b.set i u).set i v = b.set i v := by
  cases i <;> rfl

theorem ByTrigger.ext_get {α : Type} {b c : ByTrigger α} (h : ∀ i, b.get i = c.get i) : b = c := by
  obtain ⟨_, _⟩ := b
  obtain ⟨_, _⟩ := c
  simp only [ByTrigger.mk.injEq]
  exact ⟨h .depth, h .bat⟩

theorem BySource.get_set {α : Type} (b : BySource α) (i j : Source) (v : α) :
    (b.set i v).get j = if j = i then v else b.get j := by
  cases i <;> cases j <;> rfl

@[simp] theorem BySource.get_set_same {α : Type} (b : BySource α) (i : Source) (v : α) : (b.set i v).get i = v := by
  cases i <;> rfl

theorem BySource.get_set_ne {α : Type} (b : BySource α) {i j : Source} (v : α) (h : j ≠ i) : (b.set i v).get j = b.get j := by
  rw [BySource.get_set, if_neg h]

@[simp] theorem BySource.set_get {α : Type} (b : BySource α) (i : Source) : b.set i (b.get i) = b := by
  cases i <;> rfl

@[simp] theorem BySource.set_set {α : Type} (b : BySource α) (i : Source) (u v : α) : (b.set i u).set i v = b.set i v := by
  cases i <;> rfl

theorem BySource.ext_get {α : Type} {b c : BySource α} (h : ∀ i, b.get i = c.get i) : b = c := by
  obtain ⟨_, _, _, _, _, _, _⟩ := b
  obtain ⟨_, _, _, _, _, _, _⟩ := c
  simp only [BySource.mk.injEq]
  exact ⟨h .pc, h .ft, h .st, h .bt, h .dt, h .bc, h .dc⟩

end Sys2Proof
end

