-- ==== Sys2Proof/Laws/Memory.lean ====
section
/-! SUPPORT. Sample storage: reading after writing, the canonical form is kept, addresses are pairs. -/

namespace Sys2Proof.Machine

@[simp] theorem Memory.read_nil (a : Nat) : Memory.read [] a = Memory.unlisted := rfl

theorem Memory.read_cons (b : Nat) (u : Sample) (m : Memory) (a : Nat) :
    Memory.read ((b, u) :: m) a = if a = b then u else Memory.read m a := rfl

/-- An address that no entry lists holds the reset contents. -/
theorem Memory.read_of_not_listed (m : Memory) (a : Nat) (h : ∀ c ∈ m, c.1 ≠ a) : m.read a = Memory.unlisted := by
  induction m with
  | nil => rfl
  | cons c m ih =>
    obtain ⟨b, u⟩ := c
    rw [Memory.read_cons, if_neg (Ne.symm (h (b, u) (by simp)))]
    exact ih fun c hc => h c (by simp [hc])

/-- A write leaves every other address alone. -/
theorem Memory.read_write_ne (m : Memory) {a b : Nat} (v : Sample) (h : b ≠ a) : (m.write a v).read b = m.read b := by
  induction m with
  | nil =>
    unfold Memory.write
    split <;> simp [Memory.read_cons, h]
  | cons c m ih =>
    obtain ⟨k, u⟩ := c
    unfold Memory.write
    split
    · split <;> simp [Memory.read_cons, h]
    · split
      · next hk =>
        subst hk
        split <;> simp [Memory.read_cons, h]
      · simp [Memory.read_cons, ih]

/-- In canonical storage a read after a write to the same address gives what was written. -/
theorem Memory.read_write_same (m : Memory) (hm : m.wf) (a : Nat) (v : Sample) : (m.write a v).read a = v := by
  induction m with
  | nil =>
    unfold Memory.write
    split
    · next hv => simp [hv]
    · simp [Memory.read_cons]
  | cons c m ih =>
    obtain ⟨k, u⟩ := c
    obtain ⟨hp, hz⟩ := hm
    rw [List.pairwise_cons] at hp
    unfold Memory.write
    split
    · next hak =>
      split
      · next hv =>
        subst hv
        refine Memory.read_of_not_listed _ _ fun c hc => ?_
        rcases List.mem_cons.mp hc with rfl | hc
        · simp only
          omega
        · have := hp.1 c hc
          simp only at this
          omega
      · simp [Memory.read_cons]
    · split
      · next hk =>
        subst hk
        split
        · next hv =>
          subst hv
          refine Memory.read_of_not_listed _ _ fun c hc => ?_
          have := hp.1 c hc
          simp only at this
          omega
        · simp [Memory.read_cons]
      · next hk =>
        rw [Memory.read_cons, if_neg hk]
        exact ih ⟨hp.2, fun c hc => hz c (by simp [hc])⟩

/-- What a write lists: entries that were there, and perhaps the one written. -/
theorem Memory.mem_write (m : Memory) (a : Nat) (v : Sample) (c : Nat × Sample) (hc : c ∈ m.write a v) :
    c ∈ m ∨ (c = (a, v) ∧ v ≠ Memory.unlisted) := by
  induction m with
  | nil =>
    unfold Memory.write at hc
    split at hc
    · simp at hc
    · next hv => exact .inr ⟨by simpa using hc, hv⟩
  | cons d m ih =>
    obtain ⟨k, u⟩ := d
    unfold Memory.write at hc
    split at hc
    · split at hc
      · exact .inl hc
      · next hv =>
        rcases List.mem_cons.mp hc with rfl | hc
        · exact .inr ⟨rfl, hv⟩
        · exact .inl hc
    · split at hc
      · split at hc
        · exact .inl (by simp [hc])
        · next hv =>
          rcases List.mem_cons.mp hc with rfl | hc
          · exact .inr ⟨rfl, hv⟩
          · exact .inl (by simp [hc])
      · rcases List.mem_cons.mp hc with rfl | hc
        · exact .inl (by simp)
        · rcases ih hc with h | h
          · exact .inl (by simp [h])
          · exact .inr h

/-- Every write keeps the canonical form. -/
theorem Memory.write_wf (m : Memory) (hm : m.wf) (a : Nat) (v : Sample) : (m.write a v).wf := by
  refine ⟨?_, fun c hc => ?_⟩
  · induction m with
    | nil =>
      unfold Memory.write
      split <;> simp
    | cons d m ih =>
      obtain ⟨k, u⟩ := d
      obtain ⟨hp, hz⟩ := hm
      have hp' := List.pairwise_cons.mp hp
      unfold Memory.write
      split
      · next hak =>
        split
        · exact hp
        · refine List.pairwise_cons.mpr ⟨fun c hc => ?_, hp⟩
          rcases List.mem_cons.mp hc with rfl | hc
          · exact hak
          · have := hp'.1 c hc
            simp only at this ⊢
            omega
      · split
        · next hk =>
          subst hk
          split
          · exact hp'.2
          · exact List.pairwise_cons.mpr ⟨hp'.1, hp'.2⟩
        · next hak hk =>
          refine List.pairwise_cons.mpr ⟨fun c hc => ?_, ih ⟨hp'.2, fun c hc => hz c (by simp [hc])⟩⟩
          rcases Memory.mem_write m a v c hc with h | ⟨rfl, -⟩
          · exact hp'.1 c h
          · simp only
            omega
  · rcases Memory.mem_write m a v c hc with h | ⟨rfl, hv⟩
    · exact hm.2 c h
    · exact hv

@[simp] theorem Memory.nil_wf : Memory.wf [] := by
  simp [Memory.wf]

theorem channelCode_lt (ch : Channel) : ch.code.toNat < 4 := by
  cases ch <;> decide

/-- Two addresses are equal only when channel and index are (R60). -/
theorem sampleAddr_inj {ch ch' : Channel} {i j : BitVec 16} (h : sampleAddr ch i = sampleAddr ch' j) :
    ch = ch' ∧ i = j := by
  have hi := i.isLt
  have hj := j.isLt
  unfold sampleAddr at h
  have hc : ch.code.toNat = ch'.code.toNat := by omega
  refine ⟨?_, BitVec.eq_of_toNat_eq (by omega)⟩
  cases ch <;> cases ch' <;> first | rfl | exact absurd hc (by decide)

theorem sampleAddr_ne_of_channel {ch ch' : Channel} (i j : BitVec 16) (h : ch ≠ ch') :
    sampleAddr ch i ≠ sampleAddr ch' j := fun e => h (sampleAddr_inj e).1

theorem sampleAddr_ne_of_index (ch : Channel) {i j : BitVec 16} (h : i ≠ j) :
    sampleAddr ch i ≠ sampleAddr ch j := fun e => h (sampleAddr_inj e).2

/-- An address is below 2^18: 2 bits of channel, 16 bits of index (R60). -/
theorem sampleAddr_lt (ch : Channel) (i : BitVec 16) : sampleAddr ch i < 2 ^ 18 := by
  have := i.isLt
  have := channelCode_lt ch
  unfold sampleAddr
  omega

end Sys2Proof.Machine
end

