-- ==== Sys2Proof/Laws/State.lean ====
section
/-! SUPPORT. One lemma for each field of `State` under each named update, all by `rfl`. -/

namespace Sys2Proof.Machine

@[simp] theorem latch_cfg (src : Source) (s : State) : (latch src s).cfg = s.cfg := rfl
@[simp] theorem latch_trace (src : Source) (s : State) : (latch src s).trace = s.trace := rfl
@[simp] theorem latch_mem (src : Source) (s : State) : (latch src s).mem = s.mem := rfl
@[simp] theorem latch_buf (src : Source) (s : State) : (latch src s).buf = s.buf := rfl
@[simp] theorem latch_cls (src : Source) (s : State) : (latch src s).cls = s.cls := rfl
@[simp] theorem latch_last (src : Source) (s : State) : (latch src s).last = s.last := rfl
@[simp] theorem latch_pin (src : Source) (s : State) : (latch src s).pin = s.pin := rfl
@[simp] theorem latch_cal (src : Source) (s : State) : (latch src s).cal = s.cal := rfl
@[simp] theorem latch_rtc (src : Source) (s : State) : (latch src s).rtc = s.rtc := rfl
@[simp] theorem latch_midnight (src : Source) (s : State) : (latch src s).midnight = s.midnight := rfl
@[simp] theorem latch_fst (src : Source) (s : State) : (latch src s).fst = s.fst := rfl
@[simp] theorem latch_tst (src : Source) (s : State) : (latch src s).tst = s.tst := rfl
@[simp] theorem latch_owner (src : Source) (s : State) : (latch src s).owner = s.owner := rfl
@[simp] theorem latch_afe (src : Source) (s : State) : (latch src s).afe = s.afe := rfl
@[simp] theorem latch_pend (src : Source) (s : State) : (latch src s).pend = s.pend.set src true := rfl
@[simp] theorem latch_hrd (src : Source) (s : State) : (latch src s).hrd = s.hrd := rfl
@[simp] theorem latch_fault (src : Source) (s : State) : (latch src s).fault = s.fault := rfl
@[simp] theorem latch_faultLabel (src : Source) (s : State) : (latch src s).faultLabel = s.faultLabel := rfl

@[simp] theorem unlatch_cfg (src : Source) (s : State) : (unlatch src s).cfg = s.cfg := rfl
@[simp] theorem unlatch_trace (src : Source) (s : State) : (unlatch src s).trace = s.trace := rfl
@[simp] theorem unlatch_mem (src : Source) (s : State) : (unlatch src s).mem = s.mem := rfl
@[simp] theorem unlatch_buf (src : Source) (s : State) : (unlatch src s).buf = s.buf := rfl
@[simp] theorem unlatch_cls (src : Source) (s : State) : (unlatch src s).cls = s.cls := rfl
@[simp] theorem unlatch_last (src : Source) (s : State) : (unlatch src s).last = s.last := rfl
@[simp] theorem unlatch_pin (src : Source) (s : State) : (unlatch src s).pin = s.pin := rfl
@[simp] theorem unlatch_cal (src : Source) (s : State) : (unlatch src s).cal = s.cal := rfl
@[simp] theorem unlatch_rtc (src : Source) (s : State) : (unlatch src s).rtc = s.rtc := rfl
@[simp] theorem unlatch_midnight (src : Source) (s : State) : (unlatch src s).midnight = s.midnight := rfl
@[simp] theorem unlatch_fst (src : Source) (s : State) : (unlatch src s).fst = s.fst := rfl
@[simp] theorem unlatch_tst (src : Source) (s : State) : (unlatch src s).tst = s.tst := rfl
@[simp] theorem unlatch_owner (src : Source) (s : State) : (unlatch src s).owner = s.owner := rfl
@[simp] theorem unlatch_afe (src : Source) (s : State) : (unlatch src s).afe = s.afe := rfl
@[simp] theorem unlatch_pend (src : Source) (s : State) : (unlatch src s).pend = s.pend.set src false := rfl
@[simp] theorem unlatch_hrd (src : Source) (s : State) : (unlatch src s).hrd = s.hrd := rfl
@[simp] theorem unlatch_fault (src : Source) (s : State) : (unlatch src s).fault = s.fault := rfl
@[simp] theorem unlatch_faultLabel (src : Source) (s : State) : (unlatch src s).faultLabel = s.faultLabel := rfl

@[simp] theorem sampleWrite_cfg (ch : Channel) (i : BitVec 16) (v : Sample) (s : State) : (sampleWrite ch i v s).cfg = s.cfg := rfl
@[simp] theorem sampleWrite_trace (ch : Channel) (i : BitVec 16) (v : Sample) (s : State) : (sampleWrite ch i v s).trace = s.trace := rfl
@[simp] theorem sampleWrite_mem (ch : Channel) (i : BitVec 16) (v : Sample) (s : State) : (sampleWrite ch i v s).mem = s.mem.write (sampleAddr ch i) v := rfl
@[simp] theorem sampleWrite_buf (ch : Channel) (i : BitVec 16) (v : Sample) (s : State) : (sampleWrite ch i v s).buf = s.buf := rfl
@[simp] theorem sampleWrite_cls (ch : Channel) (i : BitVec 16) (v : Sample) (s : State) : (sampleWrite ch i v s).cls = s.cls := rfl
@[simp] theorem sampleWrite_last (ch : Channel) (i : BitVec 16) (v : Sample) (s : State) : (sampleWrite ch i v s).last = s.last := rfl
@[simp] theorem sampleWrite_pin (ch : Channel) (i : BitVec 16) (v : Sample) (s : State) : (sampleWrite ch i v s).pin = s.pin := rfl
@[simp] theorem sampleWrite_cal (ch : Channel) (i : BitVec 16) (v : Sample) (s : State) : (sampleWrite ch i v s).cal = s.cal := rfl
@[simp] theorem sampleWrite_rtc (ch : Channel) (i : BitVec 16) (v : Sample) (s : State) : (sampleWrite ch i v s).rtc = s.rtc := rfl
@[simp] theorem sampleWrite_midnight (ch : Channel) (i : BitVec 16) (v : Sample) (s : State) : (sampleWrite ch i v s).midnight = s.midnight := rfl
@[simp] theorem sampleWrite_fst (ch : Channel) (i : BitVec 16) (v : Sample) (s : State) : (sampleWrite ch i v s).fst = s.fst := rfl
@[simp] theorem sampleWrite_tst (ch : Channel) (i : BitVec 16) (v : Sample) (s : State) : (sampleWrite ch i v s).tst = s.tst := rfl
@[simp] theorem sampleWrite_owner (ch : Channel) (i : BitVec 16) (v : Sample) (s : State) : (sampleWrite ch i v s).owner = s.owner := rfl
@[simp] theorem sampleWrite_afe (ch : Channel) (i : BitVec 16) (v : Sample) (s : State) : (sampleWrite ch i v s).afe = s.afe := rfl
@[simp] theorem sampleWrite_pend (ch : Channel) (i : BitVec 16) (v : Sample) (s : State) : (sampleWrite ch i v s).pend = s.pend := rfl
@[simp] theorem sampleWrite_hrd (ch : Channel) (i : BitVec 16) (v : Sample) (s : State) : (sampleWrite ch i v s).hrd = s.hrd := rfl
@[simp] theorem sampleWrite_fault (ch : Channel) (i : BitVec 16) (v : Sample) (s : State) : (sampleWrite ch i v s).fault = s.fault := rfl
@[simp] theorem sampleWrite_faultLabel (ch : Channel) (i : BitVec 16) (v : Sample) (s : State) : (sampleWrite ch i v s).faultLabel = s.faultLabel := rfl

@[simp] theorem startConv_cfg (ch : Channel) (r : AfeRef) (s : State) : (startConv ch r s).cfg = s.cfg := rfl
@[simp] theorem startConv_trace (ch : Channel) (r : AfeRef) (s : State) : (startConv ch r s).trace = s.trace := rfl
@[simp] theorem startConv_mem (ch : Channel) (r : AfeRef) (s : State) : (startConv ch r s).mem = s.mem := rfl
@[simp] theorem startConv_buf (ch : Channel) (r : AfeRef) (s : State) : (startConv ch r s).buf = s.buf := rfl
@[simp] theorem startConv_cls (ch : Channel) (r : AfeRef) (s : State) : (startConv ch r s).cls = s.cls := rfl
@[simp] theorem startConv_last (ch : Channel) (r : AfeRef) (s : State) : (startConv ch r s).last = s.last := rfl
@[simp] theorem startConv_pin (ch : Channel) (r : AfeRef) (s : State) : (startConv ch r s).pin = s.pin := rfl
@[simp] theorem startConv_cal (ch : Channel) (r : AfeRef) (s : State) : (startConv ch r s).cal = s.cal := rfl
@[simp] theorem startConv_rtc (ch : Channel) (r : AfeRef) (s : State) : (startConv ch r s).rtc = s.rtc := rfl
@[simp] theorem startConv_midnight (ch : Channel) (r : AfeRef) (s : State) : (startConv ch r s).midnight = s.midnight := rfl
@[simp] theorem startConv_fst (ch : Channel) (r : AfeRef) (s : State) : (startConv ch r s).fst = s.fst := rfl
@[simp] theorem startConv_tst (ch : Channel) (r : AfeRef) (s : State) : (startConv ch r s).tst = s.tst := rfl
@[simp] theorem startConv_owner (ch : Channel) (r : AfeRef) (s : State) : (startConv ch r s).owner = s.owner := rfl
@[simp] theorem startConv_afe (ch : Channel) (r : AfeRef) (s : State) : (startConv ch r s).afe = ⟨chselOf ch, r, true, true, s.afe.res⟩ := rfl
@[simp] theorem startConv_pend (ch : Channel) (r : AfeRef) (s : State) : (startConv ch r s).pend = s.pend := rfl
@[simp] theorem startConv_hrd (ch : Channel) (r : AfeRef) (s : State) : (startConv ch r s).hrd = s.hrd := rfl
@[simp] theorem startConv_fault (ch : Channel) (r : AfeRef) (s : State) : (startConv ch r s).fault = s.fault := rfl
@[simp] theorem startConv_faultLabel (ch : Channel) (r : AfeRef) (s : State) : (startConv ch r s).faultLabel = s.faultLabel := rfl

@[simp] theorem stopConv_cfg (s : State) : (stopConv s).cfg = s.cfg := rfl
@[simp] theorem stopConv_trace (s : State) : (stopConv s).trace = s.trace := rfl
@[simp] theorem stopConv_mem (s : State) : (stopConv s).mem = s.mem := rfl
@[simp] theorem stopConv_buf (s : State) : (stopConv s).buf = s.buf := rfl
@[simp] theorem stopConv_cls (s : State) : (stopConv s).cls = s.cls := rfl
@[simp] theorem stopConv_last (s : State) : (stopConv s).last = s.last := rfl
@[simp] theorem stopConv_pin (s : State) : (stopConv s).pin = s.pin := rfl
@[simp] theorem stopConv_cal (s : State) : (stopConv s).cal = s.cal := rfl
@[simp] theorem stopConv_rtc (s : State) : (stopConv s).rtc = s.rtc := rfl
@[simp] theorem stopConv_midnight (s : State) : (stopConv s).midnight = s.midnight := rfl
@[simp] theorem stopConv_fst (s : State) : (stopConv s).fst = s.fst := rfl
@[simp] theorem stopConv_tst (s : State) : (stopConv s).tst = s.tst := rfl
@[simp] theorem stopConv_owner (s : State) : (stopConv s).owner = s.owner := rfl
@[simp] theorem stopConv_afe (s : State) : (stopConv s).afe = ⟨s.afe.chsel, s.afe.ref, false, s.afe.conv, s.afe.res⟩ := rfl
@[simp] theorem stopConv_pend (s : State) : (stopConv s).pend = s.pend := rfl
@[simp] theorem stopConv_hrd (s : State) : (stopConv s).hrd = s.hrd := rfl
@[simp] theorem stopConv_fault (s : State) : (stopConv s).fault = s.fault := rfl
@[simp] theorem stopConv_faultLabel (s : State) : (stopConv s).faultLabel = s.faultLabel := rfl

@[simp] theorem restoreRef_cfg (s : State) : (restoreRef s).cfg = s.cfg := rfl
@[simp] theorem restoreRef_trace (s : State) : (restoreRef s).trace = s.trace := rfl
@[simp] theorem restoreRef_mem (s : State) : (restoreRef s).mem = s.mem := rfl
@[simp] theorem restoreRef_buf (s : State) : (restoreRef s).buf = s.buf := rfl
@[simp] theorem restoreRef_cls (s : State) : (restoreRef s).cls = s.cls := rfl
@[simp] theorem restoreRef_last (s : State) : (restoreRef s).last = s.last := rfl
@[simp] theorem restoreRef_pin (s : State) : (restoreRef s).pin = s.pin := rfl
@[simp] theorem restoreRef_cal (s : State) : (restoreRef s).cal = s.cal := rfl
@[simp] theorem restoreRef_rtc (s : State) : (restoreRef s).rtc = s.rtc := rfl
@[simp] theorem restoreRef_midnight (s : State) : (restoreRef s).midnight = s.midnight := rfl
@[simp] theorem restoreRef_fst (s : State) : (restoreRef s).fst = s.fst := rfl
@[simp] theorem restoreRef_tst (s : State) : (restoreRef s).tst = s.tst := rfl
@[simp] theorem restoreRef_owner (s : State) : (restoreRef s).owner = s.owner := rfl
@[simp] theorem restoreRef_afe (s : State) : (restoreRef s).afe = ⟨s.afe.chsel, .refDefault, s.afe.en, s.afe.conv, s.afe.res⟩ := rfl
@[simp] theorem restoreRef_pend (s : State) : (restoreRef s).pend = s.pend := rfl
@[simp] theorem restoreRef_hrd (s : State) : (restoreRef s).hrd = s.hrd := rfl
@[simp] theorem restoreRef_fault (s : State) : (restoreRef s).fault = s.fault := rfl
@[simp] theorem restoreRef_faultLabel (s : State) : (restoreRef s).faultLabel = s.faultLabel := rfl

@[simp] theorem endFast_cfg (s : State) : (endFast s).cfg = s.cfg := rfl
@[simp] theorem endFast_trace (s : State) : (endFast s).trace = s.trace := rfl
@[simp] theorem endFast_mem (s : State) : (endFast s).mem = s.mem := rfl
@[simp] theorem endFast_buf (s : State) : (endFast s).buf = s.buf := rfl
@[simp] theorem endFast_cls (s : State) : (endFast s).cls = s.cls := rfl
@[simp] theorem endFast_last (s : State) : (endFast s).last = s.last := rfl
@[simp] theorem endFast_pin (s : State) : (endFast s).pin = s.pin := rfl
@[simp] theorem endFast_cal (s : State) : (endFast s).cal = s.cal := rfl
@[simp] theorem endFast_rtc (s : State) : (endFast s).rtc = s.rtc := rfl
@[simp] theorem endFast_midnight (s : State) : (endFast s).midnight = s.midnight := rfl
@[simp] theorem endFast_fst (s : State) : (endFast s).fst = .idle := rfl
@[simp] theorem endFast_tst (s : State) : (endFast s).tst = s.tst := rfl
@[simp] theorem endFast_owner (s : State) : (endFast s).owner = .none := rfl
@[simp] theorem endFast_afe (s : State) : (endFast s).afe = s.afe := rfl
@[simp] theorem endFast_pend (s : State) : (endFast s).pend = s.pend := rfl
@[simp] theorem endFast_hrd (s : State) : (endFast s).hrd = s.hrd := rfl
@[simp] theorem endFast_fault (s : State) : (endFast s).fault = s.fault := rfl
@[simp] theorem endFast_faultLabel (s : State) : (endFast s).faultLabel = s.faultLabel := rfl

@[simp] theorem classify_cfg (k : Classifier) (s : State) : (classify k s).cfg = s.cfg := rfl
@[simp] theorem classify_trace (k : Classifier) (s : State) : (classify k s).trace = s.trace := rfl
@[simp] theorem classify_mem (k : Classifier) (s : State) : (classify k s).mem = s.mem := rfl
@[simp] theorem classify_buf (k : Classifier) (s : State) : (classify k s).buf = s.buf := rfl
@[simp] theorem classify_cls (k : Classifier) (s : State) : (classify k s).cls = s.cls.set k ⟨0, true, inBounds (s.cfg.lo.get k) (s.cfg.hi.get k) (s.cls.get k).cnt⟩ := rfl
@[simp] theorem classify_last (k : Classifier) (s : State) : (classify k s).last = s.last := rfl
@[simp] theorem classify_pin (k : Classifier) (s : State) : (classify k s).pin = s.pin := rfl
@[simp] theorem classify_cal (k : Classifier) (s : State) : (classify k s).cal = s.cal := rfl
@[simp] theorem classify_rtc (k : Classifier) (s : State) : (classify k s).rtc = s.rtc := rfl
@[simp] theorem classify_midnight (k : Classifier) (s : State) : (classify k s).midnight = s.midnight := rfl
@[simp] theorem classify_fst (k : Classifier) (s : State) : (classify k s).fst = s.fst := rfl
@[simp] theorem classify_tst (k : Classifier) (s : State) : (classify k s).tst = s.tst := rfl
@[simp] theorem classify_owner (k : Classifier) (s : State) : (classify k s).owner = s.owner := rfl
@[simp] theorem classify_afe (k : Classifier) (s : State) : (classify k s).afe = s.afe := rfl
@[simp] theorem classify_pend (k : Classifier) (s : State) : (classify k s).pend = s.pend := rfl
@[simp] theorem classify_hrd (k : Classifier) (s : State) : (classify k s).hrd = s.hrd := rfl
@[simp] theorem classify_fault (k : Classifier) (s : State) : (classify k s).fault = s.fault := rfl
@[simp] theorem classify_faultLabel (k : Classifier) (s : State) : (classify k s).faultLabel = s.faultLabel := rfl

@[simp] theorem handlerST_cfg (s : State) : (handlerST s).cfg = s.cfg := rfl
@[simp] theorem handlerST_trace (s : State) : (handlerST s).trace = s.trace := rfl
@[simp] theorem handlerST_mem (s : State) : (handlerST s).mem = s.mem := rfl
@[simp] theorem handlerST_buf (s : State) : (handlerST s).buf = s.buf := rfl
@[simp] theorem handlerST_cls (s : State) : (handlerST s).cls = s.cls := rfl
@[simp] theorem handlerST_last (s : State) : (handlerST s).last = s.last := rfl
@[simp] theorem handlerST_pin (s : State) : (handlerST s).pin = s.pin := rfl
@[simp] theorem handlerST_cal (s : State) : (handlerST s).cal = ⟨s.cal.cur, s.rtc⟩ := rfl
@[simp] theorem handlerST_rtc (s : State) : (handlerST s).rtc = s.rtc := rfl
@[simp] theorem handlerST_midnight (s : State) : (handlerST s).midnight = (dayChanged s.cal.cur s.rtc || s.midnight) := rfl
@[simp] theorem handlerST_fst (s : State) : (handlerST s).fst = s.fst := rfl
@[simp] theorem handlerST_tst (s : State) : (handlerST s).tst = s.tst := rfl
@[simp] theorem handlerST_owner (s : State) : (handlerST s).owner = s.owner := rfl
@[simp] theorem handlerST_afe (s : State) : (handlerST s).afe = s.afe := rfl
@[simp] theorem handlerST_pend (s : State) : (handlerST s).pend = s.pend := rfl
@[simp] theorem handlerST_hrd (s : State) : (handlerST s).hrd = s.hrd := rfl
@[simp] theorem handlerST_fault (s : State) : (handlerST s).fault = s.fault := rfl
@[simp] theorem handlerST_faultLabel (s : State) : (handlerST s).faultLabel = s.faultLabel := rfl

@[simp] theorem hostRead_cfg (v : BitVec 16) (s : State) : (hostRead v s).cfg = s.cfg := rfl
@[simp] theorem hostRead_trace (v : BitVec 16) (s : State) : (hostRead v s).trace = s.trace := rfl
@[simp] theorem hostRead_mem (v : BitVec 16) (s : State) : (hostRead v s).mem = s.mem := rfl
@[simp] theorem hostRead_buf (v : BitVec 16) (s : State) : (hostRead v s).buf = s.buf := rfl
@[simp] theorem hostRead_cls (v : BitVec 16) (s : State) : (hostRead v s).cls = s.cls := rfl
@[simp] theorem hostRead_last (v : BitVec 16) (s : State) : (hostRead v s).last = s.last := rfl
@[simp] theorem hostRead_pin (v : BitVec 16) (s : State) : (hostRead v s).pin = s.pin := rfl
@[simp] theorem hostRead_cal (v : BitVec 16) (s : State) : (hostRead v s).cal = s.cal := rfl
@[simp] theorem hostRead_rtc (v : BitVec 16) (s : State) : (hostRead v s).rtc = s.rtc := rfl
@[simp] theorem hostRead_midnight (v : BitVec 16) (s : State) : (hostRead v s).midnight = s.midnight := rfl
@[simp] theorem hostRead_fst (v : BitVec 16) (s : State) : (hostRead v s).fst = s.fst := rfl
@[simp] theorem hostRead_tst (v : BitVec 16) (s : State) : (hostRead v s).tst = s.tst := rfl
@[simp] theorem hostRead_owner (v : BitVec 16) (s : State) : (hostRead v s).owner = s.owner := rfl
@[simp] theorem hostRead_afe (v : BitVec 16) (s : State) : (hostRead v s).afe = s.afe := rfl
@[simp] theorem hostRead_pend (v : BitVec 16) (s : State) : (hostRead v s).pend = s.pend := rfl
@[simp] theorem hostRead_hrd (v : BitVec 16) (s : State) : (hostRead v s).hrd = v := rfl
@[simp] theorem hostRead_fault (v : BitVec 16) (s : State) : (hostRead v s).fault = s.fault := rfl
@[simp] theorem hostRead_faultLabel (v : BitVec 16) (s : State) : (hostRead v s).faultLabel = s.faultLabel := rfl

@[simp] theorem State.recordFault_cfg (c : FaultCode) (w : Word) (s : State) : (s.recordFault c w).cfg = s.cfg := rfl
@[simp] theorem State.recordFault_trace (c : FaultCode) (w : Word) (s : State) : (s.recordFault c w).trace = s.trace := rfl
@[simp] theorem State.recordFault_mem (c : FaultCode) (w : Word) (s : State) : (s.recordFault c w).mem = s.mem := rfl
@[simp] theorem State.recordFault_buf (c : FaultCode) (w : Word) (s : State) : (s.recordFault c w).buf = s.buf := rfl
@[simp] theorem State.recordFault_cls (c : FaultCode) (w : Word) (s : State) : (s.recordFault c w).cls = s.cls := rfl
@[simp] theorem State.recordFault_last (c : FaultCode) (w : Word) (s : State) : (s.recordFault c w).last = s.last := rfl
@[simp] theorem State.recordFault_pin (c : FaultCode) (w : Word) (s : State) : (s.recordFault c w).pin = s.pin := rfl
@[simp] theorem State.recordFault_cal (c : FaultCode) (w : Word) (s : State) : (s.recordFault c w).cal = s.cal := rfl
@[simp] theorem State.recordFault_rtc (c : FaultCode) (w : Word) (s : State) : (s.recordFault c w).rtc = s.rtc := rfl
@[simp] theorem State.recordFault_midnight (c : FaultCode) (w : Word) (s : State) : (s.recordFault c w).midnight = s.midnight := rfl
@[simp] theorem State.recordFault_fst (c : FaultCode) (w : Word) (s : State) : (s.recordFault c w).fst = s.fst := rfl
@[simp] theorem State.recordFault_tst (c : FaultCode) (w : Word) (s : State) : (s.recordFault c w).tst = s.tst := rfl
@[simp] theorem State.recordFault_owner (c : FaultCode) (w : Word) (s : State) : (s.recordFault c w).owner = s.owner := rfl
@[simp] theorem State.recordFault_afe (c : FaultCode) (w : Word) (s : State) : (s.recordFault c w).afe = s.afe := rfl
@[simp] theorem State.recordFault_pend (c : FaultCode) (w : Word) (s : State) : (s.recordFault c w).pend = s.pend := rfl
@[simp] theorem State.recordFault_hrd (c : FaultCode) (w : Word) (s : State) : (s.recordFault c w).hrd = s.hrd := rfl
@[simp] theorem State.recordFault_fault (c : FaultCode) (w : Word) (s : State) : (s.recordFault c w).fault = c.code := rfl
@[simp] theorem State.recordFault_faultLabel (c : FaultCode) (w : Word) (s : State) : (s.recordFault c w).faultLabel = w := rfl

@[simp] theorem State.withFetchWord_cfg (s : State) (nbits w : Nat) : (s.withFetchWord nbits w).cfg = s.cfg := rfl
@[simp] theorem State.withFetchWord_trace (s : State) (nbits w : Nat) : (s.withFetchWord nbits w).trace = BitVec.ofNat 32 (w % 2 ^ nbits) :: s.trace := rfl
@[simp] theorem State.withFetchWord_mem (s : State) (nbits w : Nat) : (s.withFetchWord nbits w).mem = s.mem := rfl
@[simp] theorem State.withFetchWord_buf (s : State) (nbits w : Nat) : (s.withFetchWord nbits w).buf = s.buf := rfl
@[simp] theorem State.withFetchWord_cls (s : State) (nbits w : Nat) : (s.withFetchWord nbits w).cls = s.cls := rfl
@[simp] theorem State.withFetchWord_last (s : State) (nbits w : Nat) : (s.withFetchWord nbits w).last = s.last := rfl
@[simp] theorem State.withFetchWord_pin (s : State) (nbits w : Nat) : (s.withFetchWord nbits w).pin = s.pin := rfl
@[simp] theorem State.withFetchWord_cal (s : State) (nbits w : Nat) : (s.withFetchWord nbits w).cal = s.cal := rfl
@[simp] theorem State.withFetchWord_rtc (s : State) (nbits w : Nat) : (s.withFetchWord nbits w).rtc = s.rtc := rfl
@[simp] theorem State.withFetchWord_midnight (s : State) (nbits w : Nat) : (s.withFetchWord nbits w).midnight = s.midnight := rfl
@[simp] theorem State.withFetchWord_fst (s : State) (nbits w : Nat) : (s.withFetchWord nbits w).fst = s.fst := rfl
@[simp] theorem State.withFetchWord_tst (s : State) (nbits w : Nat) : (s.withFetchWord nbits w).tst = s.tst := rfl
@[simp] theorem State.withFetchWord_owner (s : State) (nbits w : Nat) : (s.withFetchWord nbits w).owner = s.owner := rfl
@[simp] theorem State.withFetchWord_afe (s : State) (nbits w : Nat) : (s.withFetchWord nbits w).afe = s.afe := rfl
@[simp] theorem State.withFetchWord_pend (s : State) (nbits w : Nat) : (s.withFetchWord nbits w).pend = s.pend := rfl
@[simp] theorem State.withFetchWord_hrd (s : State) (nbits w : Nat) : (s.withFetchWord nbits w).hrd = s.hrd := rfl
@[simp] theorem State.withFetchWord_fault (s : State) (nbits w : Nat) : (s.withFetchWord nbits w).fault = s.fault := rfl
@[simp] theorem State.withFetchWord_faultLabel (s : State) (nbits w : Nat) : (s.withFetchWord nbits w).faultLabel = s.faultLabel := rfl

@[simp] theorem storeSample_cfg (ch : Channel) (v : Sample) (s : State) : (storeSample ch v s).cfg = s.cfg := rfl
@[simp] theorem storeSample_trace (ch : Channel) (v : Sample) (s : State) : (storeSample ch v s).trace = s.trace := rfl
@[simp] theorem storeSample_mem (ch : Channel) (v : Sample) (s : State) : (storeSample ch v s).mem = s.mem.write (sampleAddr ch (s.buf.get ch).len) v := rfl
@[simp] theorem storeSample_buf (ch : Channel) (v : Sample) (s : State) : (storeSample ch v s).buf = s.buf.set ch ⟨(s.buf.get ch).len + 1, fullAt (s.cfg.cap.get ch) ((s.buf.get ch).len + 1)⟩ := rfl
@[simp] theorem storeSample_cls (ch : Channel) (v : Sample) (s : State) : (storeSample ch v s).cls = s.cls := rfl
@[simp] theorem storeSample_last (ch : Channel) (v : Sample) (s : State) : (storeSample ch v s).last = s.last := rfl
@[simp] theorem storeSample_pin (ch : Channel) (v : Sample) (s : State) : (storeSample ch v s).pin = s.pin := rfl
@[simp] theorem storeSample_cal (ch : Channel) (v : Sample) (s : State) : (storeSample ch v s).cal = s.cal := rfl
@[simp] theorem storeSample_rtc (ch : Channel) (v : Sample) (s : State) : (storeSample ch v s).rtc = s.rtc := rfl
@[simp] theorem storeSample_midnight (ch : Channel) (v : Sample) (s : State) : (storeSample ch v s).midnight = s.midnight := rfl
@[simp] theorem storeSample_fst (ch : Channel) (v : Sample) (s : State) : (storeSample ch v s).fst = s.fst := rfl
@[simp] theorem storeSample_tst (ch : Channel) (v : Sample) (s : State) : (storeSample ch v s).tst = s.tst := rfl
@[simp] theorem storeSample_owner (ch : Channel) (v : Sample) (s : State) : (storeSample ch v s).owner = s.owner := rfl
@[simp] theorem storeSample_afe (ch : Channel) (v : Sample) (s : State) : (storeSample ch v s).afe = s.afe := rfl
@[simp] theorem storeSample_pend (ch : Channel) (v : Sample) (s : State) : (storeSample ch v s).pend = s.pend := rfl
@[simp] theorem storeSample_hrd (ch : Channel) (v : Sample) (s : State) : (storeSample ch v s).hrd = s.hrd := rfl
@[simp] theorem storeSample_fault (ch : Channel) (v : Sample) (s : State) : (storeSample ch v s).fault = s.fault := rfl
@[simp] theorem storeSample_faultLabel (ch : Channel) (v : Sample) (s : State) : (storeSample ch v s).faultLabel = s.faultLabel := rfl

@[simp] theorem latchResult_cfg (v : Sample) (s : State) : (latchResult v s).cfg = s.cfg := rfl
@[simp] theorem latchResult_trace (v : Sample) (s : State) : (latchResult v s).trace = s.trace := rfl
@[simp] theorem latchResult_mem (v : Sample) (s : State) : (latchResult v s).mem = s.mem := rfl
@[simp] theorem latchResult_buf (v : Sample) (s : State) : (latchResult v s).buf = s.buf := rfl
@[simp] theorem latchResult_cls (v : Sample) (s : State) : (latchResult v s).cls = s.cls := rfl
@[simp] theorem latchResult_last (v : Sample) (s : State) : (latchResult v s).last = s.last := rfl
@[simp] theorem latchResult_pin (v : Sample) (s : State) : (latchResult v s).pin = s.pin := rfl
@[simp] theorem latchResult_cal (v : Sample) (s : State) : (latchResult v s).cal = s.cal := rfl
@[simp] theorem latchResult_rtc (v : Sample) (s : State) : (latchResult v s).rtc = s.rtc := rfl
@[simp] theorem latchResult_midnight (v : Sample) (s : State) : (latchResult v s).midnight = s.midnight := rfl
@[simp] theorem latchResult_fst (v : Sample) (s : State) : (latchResult v s).fst = s.fst := rfl
@[simp] theorem latchResult_tst (v : Sample) (s : State) : (latchResult v s).tst = s.tst := rfl
@[simp] theorem latchResult_owner (v : Sample) (s : State) : (latchResult v s).owner = s.owner := rfl
@[simp] theorem latchResult_afe (v : Sample) (s : State) : (latchResult v s).afe = ⟨s.afe.chsel, s.afe.ref, s.afe.en, false, v⟩ := rfl
@[simp] theorem latchResult_pend (v : Sample) (s : State) : (latchResult v s).pend = s.pend := rfl
@[simp] theorem latchResult_hrd (v : Sample) (s : State) : (latchResult v s).hrd = s.hrd := rfl
@[simp] theorem latchResult_fault (v : Sample) (s : State) : (latchResult v s).fault = s.fault := rfl
@[simp] theorem latchResult_faultLabel (v : Sample) (s : State) : (latchResult v s).faultLabel = s.faultLabel := rfl

end Sys2Proof.Machine
end

