-- ==== Sys2Proof/Laws/Ops.lean ====
section
/-! SUPPORT. For each shared operation, everything it can do, said once; callers cite these and do not unfold it. -/

namespace Sys2Proof.Machine

/-! ### Enabling and faults -/

theorem ifLive_of_live {s : State} (h : s.fault = 0#8) (o : Result) : ifLive s o = o := by
  simp [ifLive, h]

theorem ifLive_of_faulted {s : State} (h : s.fault ≠ 0#8) (o : Result) : ifLive s o = .refused .blockedFaulted := by
  simp [ifLive, h]

theorem ifLive_eq_next {s t : State} {o : Result} : ifLive s o = .next t ↔ s.fault = 0#8 ∧ o = .next t := by
  unfold ifLive
  split <;> simp [*]

theorem ifLive_eq_fault {s : State} {r : Fault} {o : Result} : ifLive s o = .fault r ↔ s.fault = 0#8 ∧ o = .fault r := by
  unfold ifLive
  split <;> simp [*]

theorem ifHostEnabled_of_enabled {s : State} (h : s.fault = 0#8) (hf : s.fst = .idle) (o : Result) :
    ifHostEnabled s o = o := by
  simp [ifHostEnabled, ifLive, h, hf]

theorem ifHostEnabled_of_wait {s : State} (h : s.fault = 0#8) (hf : s.fst ≠ .idle) (o : Result) :
    ifHostEnabled s o = .refused .blockedBusyWait := by
  simp [ifHostEnabled, ifLive, h, hf]

theorem ifHostEnabled_eq_next {s t : State} {o : Result} :
    ifHostEnabled s o = .next t ↔ s.fault = 0#8 ∧ s.fst = .idle ∧ o = .next t := by
  unfold ifHostEnabled
  rw [ifLive_eq_next]
  split <;> simp [*]

theorem ifHostEnabled_eq_fault {s : State} {r : Fault} {o : Result} :
    ifHostEnabled s o = .fault r ↔ s.fault = 0#8 ∧ s.fst = .idle ∧ o = .fault r := by
  unfold ifHostEnabled
  rw [ifLive_eq_fault]
  split <;> simp [*]

theorem raiseFault_ne_next (c : FaultCode) (w : Word) (s t : State) : raiseFault c w s ≠ .next t := by
  cases c <;> simp [raiseFault]

theorem raiseFault_ne_refused (c : FaultCode) (w : Word) (s : State) (r : Refusal) : raiseFault c w s ≠ .refused r := by
  cases c <;> simp [raiseFault]

/-- A handler's step is a next state exactly when the handler finishes. -/
theorem finish_eq_next {w : Word} {s t : State} {r : Except Abort State} : finish w s r = .next t ↔ r = .ok t := by
  match r with
  | .ok u => simp [finish]
  | .error (.raise c) => simp [finish, raiseFault_ne_next]
  | .error (.overrun ch) => simp [finish]

theorem finish_ne_refused (w : Word) (s : State) (r : Except Abort State) (q : Refusal) : finish w s r ≠ .refused q := by
  match r with
  | .ok u => simp [finish]
  | .error (.raise c) => simpa [finish] using raiseFault_ne_refused c w s q
  | .error (.overrun ch) => simp [finish]

/-- A handler's step faults exactly when the handler gives up. -/
theorem finish_eq_fault {w : Word} {s : State} {r : Except Abort State} {q : Fault} :
    finish w s r = .fault q ↔
      (∃ c, r = .error (.raise c) ∧ raiseFault c w s = .fault q) ∨ (∃ ch, r = .error (.overrun ch) ∧ q = .storageOverrun ch) := by
  match r with
  | .ok u => simp [finish]
  | .error (.raise c) => simp [finish]
  | .error (.overrun ch) => simp [finish, eq_comm]

/-! ### Latches and admission -/

theorem latch_pend_get (src q : Source) (s : State) :
    (latch src s).pend.get q = if q = src then true else s.pend.get q := BySource.get_set _ _ _ _

theorem unlatch_pend_get (src q : Source) (s : State) :
    (unlatch src s).pend.get q = if q = src then false else s.pend.get q := BySource.get_set _ _ _ _

theorem admitted_iff (src : Source) (s : State) :
    admitted src s = true ↔ s.fst = .idle ∨ s.cfg.prio.ft < s.cfg.prio.get src := by
  simp [admitted]

theorem admitted_of_idle (src : Source) {s : State} (h : s.fst = .idle) : admitted src s = true :=
  (admitted_iff src s).mpr (.inl h)

/-! ### The analog front-end -/

theorem acquire_free (u : Owner) {s : State} (h : s.owner = .none) : acquire u s = .ok { s with owner := u } := by
  simp [acquire, h]

theorem acquire_held (u : Owner) {s : State} (h : s.owner ≠ .none) : acquire u s = .error (.raise .afeConflict) := by
  simp [acquire, h]

theorem acquire_eq_ok {u : Owner} {s t : State} : acquire u s = .ok t ↔ s.owner = .none ∧ t = { s with owner := u } := by
  by_cases h : s.owner = .none
  · simp [acquire_free u h, h, @eq_comm _ t]
  · simp [acquire_held u h, h]

theorem acquire_eq_error {u : Owner} {s : State} {a : Abort} :
    acquire u s = .error a ↔ s.owner ≠ .none ∧ a = .raise .afeConflict := by
  by_cases h : s.owner = .none
  · simp [acquire_free u h, h]
  · simp [acquire_held u h, h, @eq_comm _ a]

/-! ### The bounded buffer -/

theorem tryAppend_full {ch : Channel} {s : State} (h : (s.buf.get ch).full = true) (v : Sample) :
    tryAppend ch v s = .ok (s, false) := by
  simp [tryAppend, h]

theorem tryAppend_room {ch : Channel} {s : State} (h : (s.buf.get ch).full = false)
    (hl : (s.buf.get ch).len.toNat < s.cfg.cap.get ch) (v : Sample) :
    tryAppend ch v s = .ok (storeSample ch v s, true) := by
  simp [tryAppend, h, hl]

theorem append_full {ch : Channel} {s : State} (h : (s.buf.get ch).full = true) (v : Sample) :
    append ch v s = .ok s := by
  simp [append, tryAppend_full h]

theorem append_room {ch : Channel} {s : State} (h : (s.buf.get ch).full = false)
    (hl : (s.buf.get ch).len.toNat < s.cfg.cap.get ch) (v : Sample) :
    append ch v s = .ok (storeSample ch v s) := by
  simp [append, tryAppend_room h hl]

theorem append_overrun {ch : Channel} {s : State} (h : (s.buf.get ch).full = false)
    (hl : ¬ (s.buf.get ch).len.toNat < s.cfg.cap.get ch) (v : Sample) :
    append ch v s = .error (.overrun ch) := by
  simp [append, tryAppend, h, hl]

/-- Everything an append can do: drop the sample, store it, or have no entry to store it in. -/
theorem append_cases (ch : Channel) (v : Sample) (s : State) :
    ((s.buf.get ch).full = true ∧ append ch v s = .ok s) ∨
    ((s.buf.get ch).full = false ∧ (s.buf.get ch).len.toNat < s.cfg.cap.get ch ∧ append ch v s = .ok (storeSample ch v s)) ∨
    ((s.buf.get ch).full = false ∧ s.cfg.cap.get ch ≤ (s.buf.get ch).len.toNat ∧ append ch v s = .error (.overrun ch)) := by
  by_cases hf : (s.buf.get ch).full = true
  · exact .inl ⟨hf, append_full hf v⟩
  · rw [Bool.not_eq_true] at hf
    by_cases hl : (s.buf.get ch).len.toNat < s.cfg.cap.get ch
    · exact .inr (.inl ⟨hf, hl, append_room hf hl v⟩)
    · exact .inr (.inr ⟨hf, Nat.le_of_not_lt hl, append_overrun hf hl v⟩)

/-- An append that succeeds dropped the sample or stored it. -/
theorem append_eq_ok {ch : Channel} {v : Sample} {s t : State} (h : append ch v s = .ok t) :
    ((s.buf.get ch).full = true ∧ t = s) ∨
    ((s.buf.get ch).full = false ∧ (s.buf.get ch).len.toNat < s.cfg.cap.get ch ∧ t = storeSample ch v s) := by
  rcases append_cases ch v s with ⟨hf, he⟩ | ⟨hf, hl, he⟩ | ⟨_, _, he⟩
  · exact .inl ⟨hf, by simpa using (h.symm.trans he)⟩
  · exact .inr ⟨hf, hl, by simpa using (h.symm.trans he)⟩
  · simp [h] at he

theorem append_eq_error {ch : Channel} {v : Sample} {s : State} {a : Abort} (h : append ch v s = .error a) :
    (s.buf.get ch).full = false ∧ s.cfg.cap.get ch ≤ (s.buf.get ch).len.toNat ∧ a = .overrun ch := by
  rcases append_cases ch v s with ⟨_, he⟩ | ⟨_, _, he⟩ | ⟨hf, hl, he⟩
  · simp [h] at he
  · simp [h] at he
  · exact ⟨hf, hl, by simpa using (h.symm.trans he)⟩

/-- An append that is not out of storage: what it stores, what it counts, and that all else stays (R110, R111, R112). -/
theorem append_spec {ch : Channel} {s : State} (v : Sample) (hw : s.mem.wf)
    (hb : (s.buf.get ch).full = true ∨ (s.buf.get ch).len.toNat < s.cfg.cap.get ch) :
    ∃ t, append ch v s = .ok t ∧ t = { s with mem := t.mem, buf := t.buf } ∧
      ((s.buf.get ch).full = true → t.mem = s.mem ∧ t.buf = s.buf) ∧
      ((s.buf.get ch).full = false →
        t.mem.read (sampleAddr ch (s.buf.get ch).len) = v ∧
        (∀ a, a ≠ sampleAddr ch (s.buf.get ch).len → t.mem.read a = s.mem.read a) ∧
        (t.buf.get ch).len = (s.buf.get ch).len + 1 ∧
        ((t.buf.get ch).full = true ↔ ((s.buf.get ch).len + 1).toNat = s.cfg.cap.get ch) ∧
        (∀ d, d ≠ ch → t.buf.get d = s.buf.get d)) := by
  by_cases hfull : (s.buf.get ch).full = true
  · exact ⟨_, append_full hfull _, rfl, fun _ => ⟨rfl, rfl⟩, fun h => by simp [h] at hfull⟩
  · refine ⟨_, append_room (by simpa using hfull) (hb.resolve_left hfull) _, rfl, fun h => absurd h hfull,
      fun _ => ⟨?_, fun a h => ?_, ?_, ?_, fun d hd => ?_⟩⟩
    · simp [Memory.read_write_same _ hw]
    · simp [Memory.read_write_ne _ _ h]
    · simp
    · simp [fullAt]
    · simp [ByChannel.get_set_ne _ _ hd]

/-- The length's increment does not wrap below a capacity that fits 16 bits. -/
theorem len_succ_toNat {l : BitVec 16} {cap : Nat} (h : l.toNat < cap) (hc : cap ≤ 65535) :
    (l + 1).toNat = l.toNat + 1 := by
  rw [BitVec.toNat_add]
  have : (1 : BitVec 16).toNat = 1 := rfl
  rw [this]
  omega

theorem fullAt_iff (cap : Nat) (len : BitVec 16) : fullAt cap len = true ↔ len.toNat = cap := by
  simp [fullAt]

theorem inBounds_iff (lo hi t : Nat) : inBounds lo hi t = true ↔ lo ≤ t ∧ t ≤ hi := by
  simp [inBounds]

theorem dayChanged_iff (a b : CalTime) : dayChanged a b = true ↔ a.day ≠ b.day := by
  simp [dayChanged]

/-! ### Calendar fields -/

theorem calGet_calSet_same (t : CalTime) (fld : CalField) (v : BitVec 16) (h : rtcValueFits fld v = true) :
    calGet (calSet t fld v) fld = v := by
  cases fld
  case year => rfl
  all_goals
    have hv : v.toNat < 256 := by simpa [rtcValueFits] using h
    apply BitVec.eq_of_toNat_eq
    simp [calGet, calSet]
    omega

theorem calGet_calSet_ne (t : CalTime) {fld g : CalField} (v : BitVec 16) (h : g ≠ fld) :
    calGet (calSet t fld v) g = calGet t g := by
  cases fld <;> cases g <;> first | rfl | exact absurd rfl h

end Sys2Proof.Machine
end

