-- ==== Sys2Proof/Laws/Handlers.lean ====
section
/-! SUPPORT. For each handler, everything it can do, said once: what the state is when it finishes, and when it gives
up. DISPATCH and EV_AFE_DONE in those terms. -/

namespace Sys2Proof.Machine

/-- One pin's reaction when its level is the last-known one: nothing (R152). -/
theorem pinReaction_same {p : Pin} {l : Bool} {s : State} (h : l = s.last.get p) : pinReaction p l s = s := by
  simp [pinReaction, h]

/-- A classifier after a PC handler run: classified when its pin's level changed, else unchanged. -/
def reclassified (changed : Bool) (lo hi : Nat) (c : ClassifierState) : ClassifierState :=
  if changed then ⟨0, true, inBounds lo hi c.cnt⟩ else c

/-- The PC handler in one piece: the three branches write disjoint state (R158). -/
theorem handlerPC_eq (s : State) : handlerPC s =
    { s with
      last := s.pin
      cls := ⟨reclassified (s.pin.wps != s.last.wps) s.cfg.lo.water s.cfg.hi.water s.cls.water,
        reclassified (s.pin.net != s.last.net) s.cfg.lo.net s.cfg.hi.net s.cls.net⟩ } := by
  obtain ⟨cfg, trace, mem, buf, cls, ⟨lw, ln, la⟩, ⟨pw, pn, pa⟩, cal, rtc, midnight, fst, tst, owner, afe, pend, hrd, fault, fl⟩ := s
  by_cases h1 : pw = lw <;> by_cases h2 : pn = ln <;> by_cases h3 : pa = la <;>
    simp [handlerPC, pinReaction, h1, h2, h3, ByPin.get, ByPin.set, pinClassifier, classify, ByClassifier.set,
      ByClassifier.get, reclassified]

theorem beginFast_free (ch : Channel) (w : FastState) {s : State} (h : s.owner = .none) :
    beginFast ch w s = .ok { startConv ch .refHigh { s with owner := .fast } with fst := w } := by
  simp [beginFast, acquire_free _ h]

theorem beginFast_held (ch : Channel) (w : FastState) {s : State} (h : s.owner ≠ .none) :
    beginFast ch w s = .error (.raise .afeConflict) := by
  simp [beginFast, acquire_held _ h]

theorem beginFast_eq_ok {ch : Channel} {w : FastState} {s t : State} :
    beginFast ch w s = .ok t ↔
      s.owner = .none ∧ t = { startConv ch .refHigh { s with owner := .fast } with fst := w } := by
  by_cases h : s.owner = .none
  · simp [beginFast_free _ _ h, h, @eq_comm _ t]
  · simp [beginFast_held _ _ h, h]

/-- What the FT handler leaves when it finishes (R192, R198). -/
theorem handlerFT_eq_ok {s t : State} :
    handlerFT s = .ok t ↔
      (s.buf.x.full = false ∧ s.owner = .none ∧
        t = { startConv .x .refHigh { s with owner := .fast } with fst := .waitX }) ∨
      (s.buf.x.full = true ∧ s.buf.y.full = false ∧ s.owner = .none ∧
        t = { startConv .y .refHigh { s with owner := .fast } with fst := .waitY }) ∨
      (s.buf.x.full = true ∧ s.buf.y.full = true ∧ t = s) := by
  unfold handlerFT
  by_cases hx : s.buf.x.full = false <;> by_cases hy : s.buf.y.full = false <;>
    simp [hx, hy, beginFast_eq_ok, @eq_comm _ t]

/-- When the FT handler gives up (R191, R192). -/
theorem handlerFT_eq_error {s : State} {a : Abort} :
    handlerFT s = .error a ↔
      (s.buf.x.full = false ∨ s.buf.y.full = false) ∧ s.owner ≠ .none ∧ a = .raise .afeConflict := by
  unfold handlerFT
  by_cases ho : s.owner = .none
  · by_cases hx : s.buf.x.full = false <;> by_cases hy : s.buf.y.full = false <;> simp [hx, hy, beginFast_free, ho]
  · by_cases hx : s.buf.x.full = false <;> by_cases hy : s.buf.y.full = false <;>
      simp [hx, hy, beginFast_held, ho, @eq_comm _ a]

theorem handlerTrig_free (c : TrigChannel) {s : State} (h : s.owner = .none) :
    handlerTrig c s = .ok (startConv (trigBuffer c) (s.cfg.refTrig.get c)
      { s with owner := trigOwner c, tst := s.tst.set c .triggered }) := by
  simp [handlerTrig, acquire_free _ h]

theorem handlerTrig_held (c : TrigChannel) {s : State} (h : s.owner ≠ .none) :
    handlerTrig c s = .error (.raise .afeConflict) := by
  simp [handlerTrig, acquire_held _ h]

/-- What a trigger handler leaves when it finishes (R200). -/
theorem handlerTrig_eq_ok {c : TrigChannel} {s t : State} :
    handlerTrig c s = .ok t ↔ s.owner = .none ∧
      t = startConv (trigBuffer c) (s.cfg.refTrig.get c) { s with owner := trigOwner c, tst := s.tst.set c .triggered } := by
  by_cases h : s.owner = .none
  · simp [handlerTrig_free c h, h, @eq_comm _ t]
  · simp [handlerTrig_held c h, h]

/-- When a trigger handler gives up (R191, R200). -/
theorem handlerTrig_eq_error {c : TrigChannel} {s : State} {a : Abort} :
    handlerTrig c s = .error a ↔ s.owner ≠ .none ∧ a = .raise .afeConflict := by
  by_cases h : s.owner = .none
  · simp [handlerTrig_free c h, h]
  · simp [handlerTrig_held c h, h, @eq_comm _ a]

/-- What a completion handler leaves when it finishes: the sample dropped or stored (R202). -/
theorem handlerDone_eq_ok {c : TrigChannel} {s t : State} (h : handlerDone c s = .ok t) :
    ((s.buf.get (trigBuffer c)).full = true ∧ t = { s with tst := s.tst.set c .idle, owner := .none }) ∨
    ((s.buf.get (trigBuffer c)).full = false ∧
      (s.buf.get (trigBuffer c)).len.toNat < s.cfg.cap.get (trigBuffer c) ∧
      t = { storeSample (trigBuffer c) s.afe.res s with tst := s.tst.set c .idle, owner := .none }) := by
  unfold handlerDone at h
  split at h
  · next u hu =>
    simp only [Except.ok.injEq] at h
    subst h
    rcases append_eq_ok hu with ⟨hf, rfl⟩ | ⟨hf, hl, rfl⟩
    · exact .inl ⟨hf, rfl⟩
    · exact .inr ⟨hf, hl, rfl⟩
  · simp at h

theorem handlerDone_eq_error {c : TrigChannel} {s : State} {a : Abort} (h : handlerDone c s = .error a) :
    a = .overrun (trigBuffer c) ∧ (s.buf.get (trigBuffer c)).full = false ∧
      s.cfg.cap.get (trigBuffer c) ≤ (s.buf.get (trigBuffer c)).len.toNat := by
  unfold handlerDone at h
  split at h
  · simp at h
  · next e he =>
    simp only [Except.error.injEq] at h
    subst h
    obtain ⟨hf, hl, rfl⟩ := append_eq_error he
    exact ⟨rfl, hf, hl⟩

/-- After the x conversion: on to y, or back to IDLE (R196). -/
theorem goToY_cases (s : State) :
    (s.buf.y.full = false ∧ goToY s = { startConv .y .refHigh s with fst := .waitY }) ∨
    (s.buf.y.full = true ∧ goToY s = endFast s) := by
  unfold goToY
  by_cases h : s.buf.y.full = false <;> simp [h]

/-- What the FT continuation leaves when it finishes: with `u` the state after the append, which dropped or stored the
result (R196). -/
theorem ftContinue_eq_ok {s t : State} (h : ftContinue s = .ok t) :
    (s.fst = .waitX ∧ ∃ u, append .x s.afe.res (stopConv s) = .ok u ∧ t = goToY (restoreRef u)) ∨
    (s.fst ≠ .waitX ∧ ∃ u, append .y s.afe.res (stopConv s) = .ok u ∧ t = endFast (restoreRef u)) := by
  unfold ftContinue at h
  simp only at h
  split at h
  · next hw =>
    split at h
    · next u hu =>
      simp only [Except.ok.injEq] at h
      exact .inl ⟨hw, u, hu, h.symm⟩
    · simp at h
  · next hw =>
    split at h
    · next u hu =>
      simp only [Except.ok.injEq] at h
      exact .inr ⟨hw, u, hu, h.symm⟩
    · simp at h

/-- The FT continuation gives up only where an append does. -/
theorem ftContinue_eq_error {s : State} {a : Abort} (h : ftContinue s = .error a) :
    ∃ ch, a = .overrun ch ∧ (ch = .x ∨ ch = .y) ∧ (s.buf.get ch).full = false ∧
      s.cfg.cap.get ch ≤ (s.buf.get ch).len.toNat := by
  unfold ftContinue at h
  simp only at h
  split at h
  · split at h
    · simp at h
    · next e he =>
      simp only [Except.error.injEq] at h
      subst h
      obtain ⟨hf, hl, rfl⟩ := append_eq_error he
      exact ⟨.x, rfl, .inl rfl, hf, hl⟩
  · split at h
    · simp at h
    · next e he =>
      simp only [Except.error.injEq] at h
      subst h
      obtain ⟨hf, hl, rfl⟩ := append_eq_error he
      exact ⟨.y, rfl, .inr rfl, hf, hl⟩

/-- Where a completion goes (R195). -/
theorem routeDone_eq_ok {s t : State} (h : routeDone s = .ok t) :
    (s.owner = .fast ∧ ftContinue s = .ok t) ∨ (s.owner = .bat ∧ t = latch .bc s) ∨
    (s.owner = .depth ∧ t = latch .dc s) ∨ (s.owner = .none ∧ t = s) := by
  unfold routeDone at h
  cases ho : s.owner <;> simp only [ho, Except.ok.injEq] at h <;> simp [h]

theorem routeDone_eq_error {s : State} {a : Abort} (h : routeDone s = .error a) :
    s.owner = .fast ∧ ftContinue s = .error a := by
  unfold routeDone at h
  cases ho : s.owner <;> simp only [ho, reduceCtorEq] at h
  exact ⟨rfl, h⟩

/-- DISPATCH of an enabled source is its handler's step (R264). -/
theorem execDispatch_enabled {src : Source} {s : State} (h : s.fault = 0#8) (hp : s.pend.get src = true)
    (ha : admitted src s = true) :
    execDispatch src s = finish (encode (.dispatch src)) s (runHandler src (unlatch src s)) := by
  simp [execDispatch, ifLive, h, hp, ha]

/-- When DISPATCH answers a next state (R264). -/
theorem execDispatch_eq_next {src : Source} {s t : State} :
    execDispatch src s = .next t ↔
      s.fault = 0#8 ∧ s.pend.get src = true ∧ admitted src s = true ∧ runHandler src (unlatch src s) = .ok t := by
  unfold execDispatch
  rw [ifLive_eq_next]
  by_cases hp : s.pend.get src = true <;> by_cases ha : admitted src s = true <;>
    simp_all [finish_eq_next]

/-- When DISPATCH answers a fault (R264). -/
theorem execDispatch_eq_fault {src : Source} {s : State} {q : Fault} :
    execDispatch src s = .fault q ↔
      s.fault = 0#8 ∧ s.pend.get src = true ∧ admitted src s = true ∧
        finish (encode (.dispatch src)) s (runHandler src (unlatch src s)) = .fault q := by
  unfold execDispatch
  rw [ifLive_eq_fault]
  by_cases hp : s.pend.get src = true <;> by_cases ha : admitted src s = true <;> simp_all

/-- When EV_AFE_DONE answers a next state (R195). -/
theorem execEvAfeDone_eq_next {v : Sample} {s t : State} :
    execEvAfeDone v s = .next t ↔
      s.fault = 0#8 ∧ s.afe.conv = true ∧ routeDone (latchResult v s) = .ok t := by
  unfold execEvAfeDone
  rw [ifLive_eq_next]
  by_cases hc : s.afe.conv = true <;> simp_all [finish_eq_next]

/-- When EV_AFE_DONE answers a fault: only where the append has no entry to write. -/
theorem execEvAfeDone_eq_fault {v : Sample} {s : State} {q : Fault} :
    execEvAfeDone v s = .fault q ↔
      s.fault = 0#8 ∧ s.afe.conv = true ∧ finish (encode (.evAfeDone v)) s (routeDone (latchResult v s)) = .fault q := by
  unfold execEvAfeDone
  rw [ifLive_eq_fault]
  by_cases hc : s.afe.conv = true <;> simp_all

end Sys2Proof.Machine
end

