-- ==== Sys2Proof/Laws/Binding.lean ====
section
/-! SUPPORT. No rule reads HOST_PORT_BINDING (R62): under another binding every label has the same outcome. -/

namespace Sys2Proof.Machine

/-- The same state under another HOST_PORT_BINDING. -/
def State.rebind (b : List (Byte × Nat)) (s : State) : State := { s with cfg := { s.cfg with hostPortBinding := b } }

/-- The same outcome under another HOST_PORT_BINDING. -/
def rebindResult (b : List (Byte × Nat)) : Result → Result
  | .next t => .next (t.rebind b)
  | .fault (.illegalOp t) => .fault (.illegalOp (t.rebind b))
  | .fault (.afeConflict t) => .fault (.afeConflict (t.rebind b))
  | .fault (.badIndex t) => .fault (.badIndex (t.rebind b))
  | .fault (.storageOverrun ch) => .fault (.storageOverrun ch)
  | .refused r => .refused r

/-- A handler's finish under another HOST_PORT_BINDING. -/
def rebindFinish (b : List (Byte × Nat)) : Except Abort State → Except Abort State
  | .ok t => .ok (t.rebind b)
  | .error a => .error a

theorem ifLive_rebind (b : List (Byte × Nat)) (s : State) (o : Result) :
    ifLive (s.rebind b) (rebindResult b o) = rebindResult b (ifLive s o) := by
  unfold ifLive
  split <;> simp_all [State.rebind, rebindResult]

theorem ifHostEnabled_rebind (b : List (Byte × Nat)) (s : State) (o : Result) :
    ifHostEnabled (s.rebind b) (rebindResult b o) = rebindResult b (ifHostEnabled s o) := by
  unfold ifHostEnabled
  rw [← ifLive_rebind]
  split <;> simp_all [State.rebind, rebindResult]

theorem raiseFault_rebind (b : List (Byte × Nat)) (c : FaultCode) (w : Word) (s : State) :
    raiseFault c w (s.rebind b) = rebindResult b (raiseFault c w s) := by
  cases c <;> rfl

theorem finish_rebind (b : List (Byte × Nat)) (w : Word) (s : State) (r : Except Abort State) :
    finish w (s.rebind b) (rebindFinish b r) = rebindResult b (finish w s r) := by
  match r with
  | .ok _ => rfl
  | .error (.raise c) => exact raiseFault_rebind b c w s
  | .error (.overrun _) => rfl

theorem append_rebind (b : List (Byte × Nat)) (ch : Channel) (v : Sample) (s : State) :
    append ch v (s.rebind b) = rebindFinish b (append ch v s) := by
  rcases append_cases ch v s with ⟨hf, he⟩ | ⟨hf, hl, he⟩ | ⟨hf, hl, he⟩
  · rw [he, append_full (s := s.rebind b) hf]; rfl
  · rw [he, append_room (s := s.rebind b) hf hl]; rfl
  · rw [he, append_overrun (s := s.rebind b) hf (Nat.not_lt.mpr hl)]; rfl

theorem acquire_rebind (b : List (Byte × Nat)) (u : Owner) (s : State) :
    acquire u (s.rebind b) = rebindFinish b (acquire u s) := by
  unfold acquire
  split <;> simp_all [State.rebind, rebindFinish]

theorem beginFast_rebind (b : List (Byte × Nat)) (ch : Channel) (w : FastState) (s : State) :
    beginFast ch w (s.rebind b) = rebindFinish b (beginFast ch w s) := by
  unfold beginFast
  rw [acquire_rebind]
  cases acquire .fast s <;> rfl

theorem goToY_rebind (b : List (Byte × Nat)) (s : State) : goToY (s.rebind b) = (goToY s).rebind b := by
  rcases goToY_cases s with ⟨h, he⟩ | ⟨h, he⟩ <;> rw [he]
  · simp [goToY, State.rebind, h]
  · simp [goToY, State.rebind, h]; rfl

theorem ftContinue_rebind (b : List (Byte × Nat)) (s : State) :
    ftContinue (s.rebind b) = rebindFinish b (ftContinue s) := by
  unfold ftContinue
  have h : stopConv (s.rebind b) = (stopConv s).rebind b := rfl
  simp only [h, append_rebind, show ((stopConv s).rebind b).fst = (stopConv s).fst from rfl,
    show ((stopConv s).rebind b).afe = (stopConv s).afe from rfl]
  split
  · cases append .x (stopConv s).afe.res (stopConv s) with
    | ok t => exact congrArg Except.ok (goToY_rebind b (restoreRef t))
    | error a => rfl
  · cases append .y (stopConv s).afe.res (stopConv s) <;> rfl

theorem routeDone_rebind (b : List (Byte × Nat)) (s : State) :
    routeDone (s.rebind b) = rebindFinish b (routeDone s) := by
  unfold routeDone
  rw [show (s.rebind b).owner = s.owner from rfl]
  cases s.owner
  case fast => exact ftContinue_rebind b s
  all_goals rfl

theorem runHandler_rebind (b : List (Byte × Nat)) (src : Source) (s : State) :
    runHandler src (s.rebind b) = rebindFinish b (runHandler src s) := by
  have trig (c : TrigChannel) : handlerTrig c (s.rebind b) = rebindFinish b (handlerTrig c s) := by
    unfold handlerTrig
    rw [acquire_rebind]
    cases acquire (trigOwner c) s <;> rfl
  have done (c : TrigChannel) : handlerDone c (s.rebind b) = rebindFinish b (handlerDone c s) := by
    unfold handlerDone
    rw [show (s.rebind b).afe = s.afe from rfl, append_rebind]
    cases append (trigBuffer c) s.afe.res s <;> rfl
  cases src
  case pc => simp only [runHandler, handlerPC_eq]; rfl
  case st => rfl
  case ft =>
    simp only [runHandler, handlerFT, beginFast_rebind, show (s.rebind b).buf = s.buf from rfl]
    split
    · rfl
    · split <;> rfl
  case bt => exact trig .bat
  case dt => exact trig .depth
  case bc => exact done .bat
  case dc => exact done .depth

/-- Every label's outcome is the same under another binding, but for the binding itself in the state it carries. -/
theorem exec_rebind (b : List (Byte × Nat)) (i : Instr) (s : State) :
    exec i (s.rebind b) = rebindResult b (exec i s) := by
  cases i
  case evPinLevel p l =>
    simp only [exec, execEvPinLevel, ← ifLive_rebind]
    congr 1
    simp only [rebindResult, show (s.rebind b).pin = s.pin from rfl]
    split <;> rfl
  case evPinChange => simp only [exec, execEvPinChange, ← ifLive_rebind]; rfl
  case evTimerTick => simp only [exec, execEvTimerTick, ← ifLive_rebind]; rfl
  case evFastTick => simp only [exec, execEvFastTick, ← ifLive_rebind]; rfl
  case evSecondTick => simp only [exec, execEvSecondTick, ← ifLive_rebind]; rfl
  case evRtcSet => simp only [exec, execEvRtcSet, ← ifLive_rebind]; rfl
  case evTriggerTick => simp only [exec, execEvTriggerTick, ← ifLive_rebind]; rfl
  case evAfeDone v =>
    simp only [exec, execEvAfeDone, ← ifLive_rebind]
    congr 1
    rw [show (s.rebind b).afe = s.afe from rfl, show latchResult v (s.rebind b) = (latchResult v s).rebind b from rfl,
      routeDone_rebind, finish_rebind]
    split <;> rfl
  case dispatch src =>
    simp only [exec, execDispatch, ← ifLive_rebind]
    congr 1
    rw [show (s.rebind b).pend = s.pend from rfl, show admitted src (s.rebind b) = admitted src s from rfl,
      show unlatch src (s.rebind b) = (unlatch src s).rebind b from rfl, runHandler_rebind, finish_rebind]
    split
    · rfl
    · split <;> rfl
  case hcReadSample ch idx =>
    simp only [exec, execHcReadSample, ← ifHostEnabled_rebind]
    congr 1
    rw [raiseFault_rebind, show (s.rebind b).cfg.cap = s.cfg.cap from rfl]
    split <;> rfl
  case hcReadLength => simp only [exec, execHcReadLength, ← ifHostEnabled_rebind]; rfl
  case hcReadCapacity => simp only [exec, execHcReadCapacity, ← ifHostEnabled_rebind]; rfl
  case hcReadStatus => simp only [exec, execHcReadStatus, ← ifHostEnabled_rebind]; rfl
  case hcReadCalendar snap fld => cases snap <;> simp only [exec, execHcReadCalendar, ← ifHostEnabled_rebind] <;> rfl
  case hcResetBuffer => simp only [exec, execHcResetBuffer, ← ifHostEnabled_rebind]; rfl
  case hcClearFlag f => cases f <;> simp only [exec, execHcClearFlag, ← ifHostEnabled_rebind] <;> rfl

/-- R62 for one label word, malformed ones too. -/
theorem takeLabel_rebind (b : List (Byte × Nat)) (w : Word) (s : State) :
    takeLabel w (s.rebind b) = rebindResult b (takeLabel w s) := by
  unfold takeLabel
  split
  · exact exec_rebind b _ s
  · rw [raiseFault_rebind, ifLive_rebind]

end Sys2Proof.Machine
end

