-- ==== Sys2Proof/Laws/Decode.lean ====
section
/-! SUPPORT. The decoder's and the encoder's small lemmas: the fields of a label, each code set and its inverse. -/

namespace Sys2Proof

/-- The number an append of bits stands for. -/
theorem append_toNat {m n : Nat} (a : BitVec m) (b : BitVec n) : (a ++ b).toNat = a.toNat * 2 ^ n + b.toNat := by
  rw [BitVec.toNat_append, ← Nat.shiftLeft_add_eq_or_of_lt b.isLt, Nat.shiftLeft_eq]

/-- OPC·2^24 + SEL·2^16 + DATA (R93). -/
theorem mkLabel_toNat (opc sel : Byte) (data : BitVec 16) :
    (mkLabel opc sel data).toNat = opc.toNat * 2 ^ 24 + sel.toNat * 2 ^ 16 + data.toNat := by
  rw [mkLabel, append_toNat, append_toNat]
  omega

theorem opcOf_toNat (w : Word) : (opcOf w).toNat = w.toNat / 2 ^ 24 % 256 := by
  simp [opcOf, BitVec.extractLsb'_toNat, Nat.shiftRight_eq_div_pow]

theorem selOf_toNat (w : Word) : (selOf w).toNat = w.toNat / 2 ^ 16 % 256 := by
  simp [selOf, BitVec.extractLsb'_toNat, Nat.shiftRight_eq_div_pow]

theorem dataOf_toNat (w : Word) : (dataOf w).toNat = w.toNat % 65536 := by
  simp [dataOf, BitVec.extractLsb'_toNat]

@[simp] theorem opcOf_mkLabel (opc sel : Byte) (data : BitVec 16) : opcOf (mkLabel opc sel data) = opc := by
  apply BitVec.eq_of_toNat_eq
  rw [opcOf_toNat, mkLabel_toNat]
  omega

@[simp] theorem selOf_mkLabel (opc sel : Byte) (data : BitVec 16) : selOf (mkLabel opc sel data) = sel := by
  apply BitVec.eq_of_toNat_eq
  rw [selOf_toNat, mkLabel_toNat]
  omega

@[simp] theorem dataOf_mkLabel (opc sel : Byte) (data : BitVec 16) : dataOf (mkLabel opc sel data) = data := by
  apply BitVec.eq_of_toNat_eq
  rw [dataOf_toNat, mkLabel_toNat]
  omega

/-- A label is its three fields. -/
theorem mkLabel_fields (w : Word) : mkLabel (opcOf w) (selOf w) (dataOf w) = w := by
  apply BitVec.eq_of_toNat_eq
  rw [mkLabel_toNat, opcOf_toNat, selOf_toNat, dataOf_toNat]
  have := w.isLt
  omega

@[simp] theorem opcOf_encode (i : Instr) : opcOf (encode i) = i.opc.code := opcOf_mkLabel _ _ _

@[simp] theorem selOf_encode (i : Instr) : selOf (encode i) = i.sel := selOf_mkLabel _ _ _

@[simp] theorem dataOf_encode (i : Instr) : dataOf (encode i) = i.data := dataOf_mkLabel _ _ _

/-! ### Code sets -/

@[simp] theorem opcOfCode_code (op : Opc) : opcOfCode op.code = some op := by cases op <;> rfl

@[simp] theorem channelOfCode_code (ch : Channel) : channelOfCode ch.code = some ch := by cases ch <;> rfl

@[simp] theorem trigChannelOfCode_code (c : TrigChannel) : trigChannelOfCode c.code = some c := by cases c <;> rfl

@[simp] theorem classifierOfCode_code (k : Classifier) : classifierOfCode k.code = some k := by cases k <;> rfl

@[simp] theorem pinOfCode_code (p : Pin) : pinOfCode p.code = some p := by cases p <;> rfl

@[simp] theorem flagOfCode_code (f : Flag) : flagOfCode f.code = some f := by cases f <;> rfl

@[simp] theorem sourceOfCode_code (s : Source) : sourceOfCode s.code = some s := by cases s <;> rfl

@[simp] theorem calFieldOfCode_code (fld : CalField) : calFieldOfCode fld.code = some fld := by cases fld <;> rfl

@[simp] theorem calSelOfCode_code (snap : Snapshot) (fld : CalField) :
    calSelOfCode (calSelCode snap fld) = some (snap, fld) := by
  cases snap <;> cases fld <;> rfl

/-! ### A code that decodes is the code of what it decodes to -/

theorem channelCode_of_decoded : ∀ (b : Byte) (a : Channel), channelOfCode b = some a → a.code = b := by decide

theorem trigChannelCode_of_decoded : ∀ (b : Byte) (a : TrigChannel), trigChannelOfCode b = some a → a.code = b := by decide

theorem classifierCode_of_decoded : ∀ (b : Byte) (a : Classifier), classifierOfCode b = some a → a.code = b := by decide

theorem pinCode_of_decoded : ∀ (b : Byte) (a : Pin), pinOfCode b = some a → a.code = b := by decide

theorem flagCode_of_decoded : ∀ (b : Byte) (a : Flag), flagOfCode b = some a → a.code = b := by decide

theorem sourceCode_of_decoded : ∀ (b : Byte) (a : Source), sourceOfCode b = some a → a.code = b := by decide

theorem calFieldCode_of_decoded : ∀ (b : Byte) (a : CalField), calFieldOfCode b = some a → a.code = b := by decide

theorem opcCode_of_decoded : ∀ (b : Byte) (a : Opc), opcOfCode b = some a → a.code = b := by decide

theorem calSelCode_of_decoded : ∀ (b : Byte) (p : Snapshot × CalField), calSelOfCode b = some p → calSelCode p.1 p.2 = b := by decide

/-! ### Which codes decode: the ranges of rule R86 -/

theorem channelOfCode_isSome : ∀ b : Byte, (channelOfCode b).isSome = decide (b.toNat ≤ 3) := by decide

theorem trigChannelOfCode_isSome : ∀ b : Byte, (trigChannelOfCode b).isSome = decide (b.toNat ≤ 1) := by decide

theorem classifierOfCode_isSome : ∀ b : Byte, (classifierOfCode b).isSome = decide (b.toNat ≤ 1) := by decide

theorem pinOfCode_isSome : ∀ b : Byte, (pinOfCode b).isSome = decide (b.toNat ≤ 2) := by decide

theorem flagOfCode_isSome : ∀ b : Byte, (flagOfCode b).isSome = decide (b.toNat ≤ 2) := by decide

theorem sourceOfCode_isSome : ∀ b : Byte, (sourceOfCode b).isSome = decide (b.toNat ≤ 6) := by decide

theorem calFieldOfCode_isSome : ∀ b : Byte, (calFieldOfCode b).isSome = decide (b.toNat ≤ 5) := by decide

theorem calSelOfCode_isSome : ∀ b : Byte, (calSelOfCode b).isSome =
    (decide (b.extractLsb' 4 4 = 0#4) && decide ((b.extractLsb' 0 3).toNat ≤ 5)) := by decide

end Sys2Proof
end

