-- ==== Sys2Proof/Laws/Effects.lean ====
section
/-! SUPPORT. Everything a label can do when it answers a next state, said once, as record updates of the state before
it: a claim about all labels is a case analysis over `Effect`. -/

namespace Sys2Proof.Machine

/-- What an append leaves of storage and buffers: nothing changed on a full buffer, else one sample more (R110). -/
def Appended (ch : Channel) (v : Sample) (s : State) (m : Memory) (b : ByChannel Buffer) : Prop :=
  ((s.buf.get ch).full = true ∧ m = s.mem ∧ b = s.buf) ∨
  ((s.buf.get ch).full = false ∧ (s.buf.get ch).len.toNat < s.cfg.cap.get ch ∧
    m = s.mem.write (sampleAddr ch (s.buf.get ch).len) v ∧
    b = s.buf.set ch ⟨(s.buf.get ch).len + 1, fullAt (s.cfg.cap.get ch) ((s.buf.get ch).len + 1)⟩)

/-- An append changes storage and buffers only. -/
theorem append_appended {ch : Channel} {v : Sample} {s u : State} (h : append ch v s = .ok u) :
    Appended ch v s u.mem u.buf ∧ u = { s with mem := u.mem, buf := u.buf } := by
  rcases append_eq_ok h with ⟨hf, rfl⟩ | ⟨hf, hl, rfl⟩
  · exact ⟨.inl ⟨hf, rfl, rfl⟩, rfl⟩
  · exact ⟨.inr ⟨hf, hl, rfl, rfl⟩, rfl⟩

/-- The next states of every label: `Effect i s t` when `t` is what `i` makes of `s`. -/
inductive Effect : Instr → State → State → Prop
  | pinSame (p l s) : s.pin.get p = l → Effect (.evPinLevel p l) s s
  | pinChanged (p l s) : s.pin.get p ≠ l →
      Effect (.evPinLevel p l) s { s with pin := s.pin.set p l, pend := s.pend.set .pc true }
  | pinNotified (s) : Effect .evPinChange s { s with pend := s.pend.set .pc true }
  | counted (k s) : Effect (.evTimerTick k) s { s with cls := s.cls.set k (countTick s.cfg.wT (s.cls.get k)) }
  | fastTick (s) : Effect .evFastTick s { s with pend := s.pend.set .ft true }
  | secondTick (s) : Effect .evSecondTick s { s with pend := s.pend.set .st true }
  | rtcSet (fld v s) : Effect (.evRtcSet fld v) s { s with rtc := calSet s.rtc fld v }
  | triggerTick (c s) : Effect (.evTriggerTick c) s { s with pend := s.pend.set (trigSource c) true }
  | doneBat (v s) : s.afe.conv = true → s.owner = .bat →
      Effect (.evAfeDone v) s { s with
        afe := ⟨s.afe.chsel, s.afe.ref, s.afe.en, false, v⟩, pend := s.pend.set .bc true }
  | doneDepth (v s) : s.afe.conv = true → s.owner = .depth →
      Effect (.evAfeDone v) s { s with
        afe := ⟨s.afe.chsel, s.afe.ref, s.afe.en, false, v⟩, pend := s.pend.set .dc true }
  | doneUnowned (v s) : s.afe.conv = true → s.owner = .none →
      Effect (.evAfeDone v) s { s with afe := ⟨s.afe.chsel, s.afe.ref, s.afe.en, false, v⟩ }
  | doneXThenY (v s m b) : s.afe.conv = true → s.owner = .fast → s.fst = .waitX → Appended .x v s m b →
      b.y.full = false →
      Effect (.evAfeDone v) s { s with mem := m, buf := b, fst := .waitY, afe := ⟨.y, .refHigh, true, true, v⟩ }
  | doneXThenEnd (v s m b) : s.afe.conv = true → s.owner = .fast → s.fst = .waitX → Appended .x v s m b →
      b.y.full = true →
      Effect (.evAfeDone v) s { s with
        mem := m, buf := b, fst := .idle, owner := .none, afe := ⟨s.afe.chsel, .refDefault, false, false, v⟩ }
  | doneY (v s m b) : s.afe.conv = true → s.owner = .fast → s.fst ≠ .waitX → Appended .y v s m b →
      Effect (.evAfeDone v) s { s with
        mem := m, buf := b, fst := .idle, owner := .none, afe := ⟨s.afe.chsel, .refDefault, false, false, v⟩ }
  | pinHandler (s) : s.pend.get .pc = true → admitted .pc s = true →
      Effect (.dispatch .pc) s { s with
        last := s.pin
        cls := ⟨reclassified (s.pin.wps != s.last.wps) s.cfg.lo.water s.cfg.hi.water s.cls.water,
          reclassified (s.pin.net != s.last.net) s.cfg.lo.net s.cfg.hi.net s.cls.net⟩
        pend := s.pend.set .pc false }
  | secondHandler (s) : s.pend.get .st = true → admitted .st s = true →
      Effect (.dispatch .st) s { s with
        cal := ⟨s.cal.cur, s.rtc⟩, midnight := dayChanged s.cal.cur s.rtc || s.midnight, pend := s.pend.set .st false }
  | fastHandlerX (s) : s.pend.get .ft = true → admitted .ft s = true → s.buf.x.full = false → s.owner = .none →
      Effect (.dispatch .ft) s { s with
        owner := .fast, fst := .waitX, afe := ⟨.x, .refHigh, true, true, s.afe.res⟩, pend := s.pend.set .ft false }
  | fastHandlerY (s) : s.pend.get .ft = true → admitted .ft s = true → s.buf.x.full = true → s.buf.y.full = false →
      s.owner = .none →
      Effect (.dispatch .ft) s { s with
        owner := .fast, fst := .waitY, afe := ⟨.y, .refHigh, true, true, s.afe.res⟩, pend := s.pend.set .ft false }
  | fastHandlerFull (s) : s.pend.get .ft = true → admitted .ft s = true → s.buf.x.full = true → s.buf.y.full = true →
      Effect (.dispatch .ft) s { s with pend := s.pend.set .ft false }
  | batTrigger (s) : s.pend.get .bt = true → admitted .bt s = true → s.owner = .none →
      Effect (.dispatch .bt) s { s with
        owner := .bat, tst := s.tst.set .bat .triggered
        afe := ⟨.bat, s.cfg.refTrig.get .bat, true, true, s.afe.res⟩, pend := s.pend.set .bt false }
  | depthTrigger (s) : s.pend.get .dt = true → admitted .dt s = true → s.owner = .none →
      Effect (.dispatch .dt) s { s with
        owner := .depth, tst := s.tst.set .depth .triggered
        afe := ⟨.depth, s.cfg.refTrig.get .depth, true, true, s.afe.res⟩, pend := s.pend.set .dt false }
  | batCompletion (s m b) : s.pend.get .bc = true → admitted .bc s = true → Appended .bat s.afe.res s m b →
      Effect (.dispatch .bc) s { s with
        mem := m, buf := b, owner := .none, tst := s.tst.set .bat .idle, pend := s.pend.set .bc false }
  | depthCompletion (s m b) : s.pend.get .dc = true → admitted .dc s = true → Appended .depth s.afe.res s m b →
      Effect (.dispatch .dc) s { s with
        mem := m, buf := b, owner := .none, tst := s.tst.set .depth .idle, pend := s.pend.set .dc false }
  | sampleRead (ch i s) : s.fst = .idle → i.toNat < s.cfg.cap.get ch →
      Effect (.hcReadSample ch i) s { s with hrd := s.mem.read (sampleAddr ch i) }
  | lengthRead (ch s) : s.fst = .idle → Effect (.hcReadLength ch) s { s with hrd := (s.buf.get ch).len }
  | capacityRead (ch s) : s.fst = .idle →
      Effect (.hcReadCapacity ch) s { s with hrd := BitVec.ofNat 16 (s.cfg.cap.get ch) }
  | statusRead (s) : s.fst = .idle → Effect .hcReadStatus s { s with hrd := statusWord s }
  | calendarRead (snap fld s) : s.fst = .idle →
      Effect (.hcReadCalendar snap fld) s { s with hrd := calGet (snapshotOf s snap) fld }
  | bufferReset (ch s) : s.fst = .idle → Effect (.hcResetBuffer ch) s { s with buf := s.buf.set ch ⟨0, false⟩ }
  | midnightCleared (s) : s.fst = .idle → Effect (.hcClearFlag .midnight) s { s with midnight := false }
  | waterCleared (s) : s.fst = .idle →
      Effect (.hcClearFlag .water) s { s with cls := s.cls.set .water { s.cls.water with active := false } }
  | netCleared (s) : s.fst = .idle →
      Effect (.hcClearFlag .net) s { s with cls := s.cls.set .net { s.cls.net with active := false } }

/-- A completion of the fast sampler's conversion, in `Effect`'s terms. -/
theorem effect_of_ftContinue {v : Sample} {s t : State} (hc : s.afe.conv = true) (ho : s.owner = .fast)
    (h : ftContinue (latchResult v s) = .ok t) : Effect (.evAfeDone v) s t := by
  rcases ftContinue_eq_ok h with ⟨hw, u, hu, rfl⟩ | ⟨hw, u, hu, rfl⟩ <;> obtain ⟨ha, he⟩ := append_appended hu
  · rcases goToY_cases (restoreRef u) with ⟨hy, ht⟩ | ⟨hy, ht⟩ <;> rw [ht, he]
    · exact .doneXThenY v s u.mem u.buf hc ho hw ha hy
    · exact .doneXThenEnd v s u.mem u.buf hc ho hw ha hy
  · rw [he]
    exact .doneY v s u.mem u.buf hc ho hw ha

/-- A completion handler, in `Effect`'s terms. -/
theorem handlerDone_appended {c : TrigChannel} {s t : State} (h : handlerDone c s = .ok t) :
    ∃ m b, Appended (trigBuffer c) s.afe.res s m b ∧
      t = { s with mem := m, buf := b, owner := .none, tst := s.tst.set c .idle } := by
  rcases handlerDone_eq_ok h with ⟨hf, rfl⟩ | ⟨hf, hl, rfl⟩
  · exact ⟨_, _, .inl ⟨hf, rfl, rfl⟩, rfl⟩
  · exact ⟨_, _, .inr ⟨hf, hl, rfl, rfl⟩, rfl⟩

/-- A handler's run after DISPATCH, in `Effect`'s terms. -/
theorem effect_of_runHandler {src : Source} {s t : State} (hp : s.pend.get src = true) (ha : admitted src s = true)
    (h : runHandler src (unlatch src s) = .ok t) : Effect (.dispatch src) s t := by
  cases src <;> simp only [runHandler, Except.ok.injEq] at h
  case pc =>
    subst h
    rw [handlerPC_eq]
    exact .pinHandler s hp ha
  case st =>
    subst h
    exact .secondHandler s hp ha
  case ft =>
    rcases handlerFT_eq_ok.mp h with ⟨hx, ho, rfl⟩ | ⟨hx, hy, ho, rfl⟩ | ⟨hx, hy, rfl⟩
    · exact .fastHandlerX s hp ha hx ho
    · exact .fastHandlerY s hp ha hx hy ho
    · exact .fastHandlerFull s hp ha hx hy
  case bt =>
    obtain ⟨ho, rfl⟩ := handlerTrig_eq_ok.mp h
    exact .batTrigger s hp ha ho
  case dt =>
    obtain ⟨ho, rfl⟩ := handlerTrig_eq_ok.mp h
    exact .depthTrigger s hp ha ho
  case bc =>
    obtain ⟨m, b, hm, rfl⟩ := handlerDone_appended h
    exact .batCompletion s m b hp ha hm
  case dc =>
    obtain ⟨m, b, hm, rfl⟩ := handlerDone_appended h
    exact .depthCompletion s m b hp ha hm

/-- Every next state is one `Effect` gives, from a non-faulted state. -/
theorem exec_next {i : Instr} {s t : State} (h : exec i s = .next t) : s.fault = 0#8 ∧ Effect i s t := by
  cases i <;> simp only [exec, execEvPinLevel, execEvPinChange, execEvTimerTick, execEvFastTick, execEvSecondTick,
    execEvRtcSet, execEvTriggerTick, execHcReadSample, execHcReadLength, execHcReadCapacity, execHcReadStatus,
    execHcReadCalendar, execHcResetBuffer, execHcClearFlag, ifLive_eq_next, ifHostEnabled_eq_next,
    Host.Outcome.next.injEq] at h
  case evPinLevel p l =>
    obtain ⟨hf, rfl⟩ := h
    refine ⟨hf, ?_⟩
    split
    · next hp => exact .pinSame p l s hp
    · next hp => exact .pinChanged p l s hp
  case evPinChange => obtain ⟨hf, rfl⟩ := h; exact ⟨hf, .pinNotified s⟩
  case evTimerTick => obtain ⟨hf, rfl⟩ := h; exact ⟨hf, .counted _ s⟩
  case evFastTick => obtain ⟨hf, rfl⟩ := h; exact ⟨hf, .fastTick s⟩
  case evSecondTick => obtain ⟨hf, rfl⟩ := h; exact ⟨hf, .secondTick s⟩
  case evRtcSet => obtain ⟨hf, rfl⟩ := h; exact ⟨hf, .rtcSet _ _ s⟩
  case evTriggerTick => obtain ⟨hf, rfl⟩ := h; exact ⟨hf, .triggerTick _ s⟩
  case evAfeDone v =>
    obtain ⟨hf, hc, h⟩ := execEvAfeDone_eq_next.mp h
    refine ⟨hf, ?_⟩
    rcases routeDone_eq_ok h with ⟨ho, h⟩ | ⟨ho, rfl⟩ | ⟨ho, rfl⟩ | ⟨ho, rfl⟩
    · exact effect_of_ftContinue hc ho h
    · exact .doneBat v s hc ho
    · exact .doneDepth v s hc ho
    · exact .doneUnowned v s hc ho
  case dispatch src =>
    obtain ⟨hf, hp, ha, h⟩ := execDispatch_eq_next.mp h
    exact ⟨hf, effect_of_runHandler hp ha h⟩
  case hcReadSample ch idx =>
    obtain ⟨hf, hi, h⟩ := h
    refine ⟨hf, ?_⟩
    split at h
    · next hl =>
      simp only [Host.Outcome.next.injEq] at h
      subst h
      exact .sampleRead _ _ _ hi hl
    · exact absurd h (raiseFault_ne_next _ _ _ _)
  case hcReadLength => obtain ⟨hf, hi, rfl⟩ := h; exact ⟨hf, .lengthRead _ _ hi⟩
  case hcReadCapacity => obtain ⟨hf, hi, rfl⟩ := h; exact ⟨hf, .capacityRead _ _ hi⟩
  case hcReadStatus => obtain ⟨hf, hi, rfl⟩ := h; exact ⟨hf, .statusRead _ hi⟩
  case hcReadCalendar => obtain ⟨hf, hi, rfl⟩ := h; exact ⟨hf, .calendarRead _ _ _ hi⟩
  case hcResetBuffer => obtain ⟨hf, hi, rfl⟩ := h; exact ⟨hf, .bufferReset _ _ hi⟩
  case hcClearFlag f =>
    obtain ⟨hf, hi, rfl⟩ := h
    cases f
    · exact ⟨hf, .midnightCleared s hi⟩
    · exact ⟨hf, .waterCleared s hi⟩
    · exact ⟨hf, .netCleared s hi⟩

end Sys2Proof.Machine
end

