-- ==== Sys2Proof/Laws/Flags.lean ====
section
/-! SUPPORT. The bits of the STATUS view, and what a trigger state's bit says. -/

namespace Sys2Proof.Machine

/-- A bit below a Bool appended on the right. -/
theorem getLsbD_append_ofBool {n : Nat} (x : BitVec n) (b : Bool) (i : Nat) :
    (x ++ BitVec.ofBool b).getLsbD i = if i = 0 then b else x.getLsbD (i - 1) := by
  rw [BitVec.getLsbD_append]
  cases i <;> simp

theorem getLsbD_append_zero {n : Nat} (x : BitVec n) (i : Nat) :
    (x ++ 0#1).getLsbD i = if i = 0 then false else x.getLsbD (i - 1) := by
  rw [BitVec.getLsbD_append]
  cases i <;> simp

/-- The sixteen bits of the STATUS view (R44). -/
theorem statusWord_bits (s : State) :
    (statusWord s).getLsbD 0 = s.midnight ∧
    (statusWord s).getLsbD 1 = s.cls.water.active ∧
    (statusWord s).getLsbD 2 = s.cls.net.active ∧
    (statusWord s).getLsbD 3 = s.buf.depth.full ∧
    (statusWord s).getLsbD 4 = s.buf.bat.full ∧
    (statusWord s).getLsbD 5 = s.buf.x.full ∧
    (statusWord s).getLsbD 6 = s.buf.y.full ∧
    (statusWord s).getLsbD 7 = false ∧
    (statusWord s).getLsbD 8 = s.last.wps ∧
    (statusWord s).getLsbD 9 = s.last.net ∧
    (statusWord s).getLsbD 10 = s.last.aux ∧
    (statusWord s).getLsbD 11 = s.tst.bat.bit ∧
    (statusWord s).getLsbD 12 = s.tst.depth.bit ∧
    (statusWord s).getLsbD 13 = false ∧
    (statusWord s).getLsbD 14 = false ∧
    (statusWord s).getLsbD 15 = false := by
  unfold statusWord
  refine ⟨?_, ?_, ?_, ?_, ?_, ?_, ?_, ?_, ?_, ?_, ?_, ?_, ?_, ?_, ?_, ?_⟩ <;>
    simp only [getLsbD_append_ofBool, getLsbD_append_zero, reduceIte, Nat.reduceSub, BitVec.getLsbD_zero,
      OfNat.ofNat_ne_zero, one_ne_zero]

theorem TrigState.bit_iff (t : TrigState) : t.bit = true ↔ t = .triggered := by
  cases t <;> simp [TrigState.bit]

end Sys2Proof.Machine
end

