-- ==== Sys2Proof/Laws/Operands.lean ====
section
/-! SUPPORT. The codes of the state sets of rule R17: each tells its members apart, and the channel select is the
channel's code plus one. -/

namespace Sys2Proof.Machine

theorem FastState.code_inj {a b : FastState} : a.code = b.code ↔ a = b := by
  cases a <;> cases b <;> decide

theorem TrigState.code_inj {a b : TrigState} : a.code = b.code ↔ a = b := by
  cases a <;> cases b <;> decide

theorem Owner.code_inj {a b : Owner} : a.code = b.code ↔ a = b := by
  cases a <;> cases b <;> decide

theorem AfeSel.code_inj {a b : AfeSel} : a.code = b.code ↔ a = b := by
  cases a <;> cases b <;> decide

theorem refCode_inj {a b : AfeRef} : refCode a = refCode b ↔ a = b := by
  cases a <;> cases b <;> decide

/-- A trigger's STATUS bit is its code (R44). -/
@[simp] theorem TrigState.ofBool_bit (t : TrigState) : BitVec.ofBool t.bit = t.code := by
  cases t <;> rfl

/-- `chsel(ch) = ch + 1` (R17). -/
theorem chselOf_code (ch : Channel) : (chselOf ch).code = ch.code.setWidth 3 + 1 := by
  cases ch <;> rfl

end Sys2Proof.Machine
end

