-- ==== Sys2Proof/Laws/PerInstr.lean ====
section
/-! SUPPORT. Per-instruction families. `EncodeLegal`: the label of every well-formed instruction meets rule R86 (the
assembler never emits an illegal word, R91). -/

namespace Sys2Proof.Laws.EncodeLegal

/-- The encoded label is well-formed in the sense of R86. -/
def Statement (i : Instr) : Prop := i.wf = true → wfWord (encode i) = true

theorem evPinLevel (p : Pin) (level : Bool) : Statement (.evPinLevel p level) := by
  intro _
  cases p <;> cases level <;> decide

theorem evPinChange : Statement .evPinChange := by
  intro _
  decide

theorem evTimerTick (k : Classifier) : Statement (.evTimerTick k) := by
  intro _
  cases k <;> decide

theorem evFastTick : Statement .evFastTick := by
  intro _
  decide

theorem evSecondTick : Statement .evSecondTick := by
  intro _
  decide

/-- The high byte of a value below 256 is 0. -/
theorem high_byte_zero (v : BitVec 16) (h : v.toNat < 256) : v.extractLsb' 8 8 = 0#8 := by
  apply BitVec.eq_of_toNat_eq
  simp [BitVec.extractLsb'_toNat, Nat.shiftRight_eq_div_pow]
  omega

theorem evRtcSet (fld : CalField) (value : BitVec 16) : Statement (.evRtcSet fld value) := by
  intro h
  have h' : fld = .year ∨ value.toNat < 256 := by simpa [Instr.wf, rtcValueFits] using h
  cases fld <;> simp [wfWord, Instr.opc, Instr.sel, Instr.data, Opc.code, CalField.code] <;>
    exact high_byte_zero value (by simpa using h')

theorem evTriggerTick (c : TrigChannel) : Statement (.evTriggerTick c) := by
  intro _
  cases c <;> decide

theorem evAfeDone (result : Sample) : Statement (.evAfeDone result) := by
  intro _
  simp [wfWord, Instr.opc, Instr.sel, Opc.code]

theorem dispatch (src : Source) : Statement (.dispatch src) := by
  intro _
  cases src <;> decide

theorem hcReadSample (ch : Channel) (index : BitVec 16) : Statement (.hcReadSample ch index) := by
  intro _
  cases ch <;> simp [wfWord, Instr.opc, Instr.sel, Opc.code, Channel.code]

theorem hcReadLength (ch : Channel) : Statement (.hcReadLength ch) := by
  intro _
  cases ch <;> decide

theorem hcReadCapacity (ch : Channel) : Statement (.hcReadCapacity ch) := by
  intro _
  cases ch <;> decide

theorem hcReadStatus : Statement .hcReadStatus := by
  intro _
  decide

theorem hcReadCalendar (snap : Snapshot) (fld : CalField) : Statement (.hcReadCalendar snap fld) := by
  intro _
  cases snap <;> cases fld <;> decide

theorem hcResetBuffer (ch : Channel) : Statement (.hcResetBuffer ch) := by
  intro _
  cases ch <;> decide

theorem hcClearFlag (f : Flag) : Statement (.hcClearFlag f) := by
  intro _
  cases f <;> decide

end Sys2Proof.Laws.EncodeLegal
end

