-- ==== Sys2Proof/Tests/Slice0.lean ====
section
/-! SUPPORT. The model's own tests. Expected values are the spec's: the words of rule R93 and of 95_test_vectors.md
section 2.1, and the vectors of its sections 2.2 to 2.9, named in each comment. `witness_` theorems show a state and
operands that meet the hypotheses of one obligation. -/

open Sys2Proof Sys2Proof.Machine

/-! ### States the tests start from -/

/-- Reset, with one latch set. -/
def Tests.pending (src : Source) : State := latch src State.reset

/-- The busy-wait for x, reached from reset by a fast tick (vector A1). -/
def Tests.waitX : State :=
  { State.reset with owner := .fast, fst := .waitX, afe := ⟨.x, .refHigh, true, true, 0⟩ }

/-- The busy-wait for y, with x full (vector A3). -/
def Tests.waitY : State :=
  { State.reset with
    owner := .fast, fst := .waitY, afe := ⟨.y, .refHigh, true, true, 0⟩, buf := State.reset.buf.set .x ⟨4, true⟩ }

/-- A battery conversion in flight (vector A6). -/
def Tests.batBusy : State :=
  { State.reset with owner := .bat, tst := ⟨.idle, .triggered⟩, afe := ⟨.bat, .refDefault, true, true, 0⟩ }

/-- A depth conversion in flight. -/
def Tests.depthBusy : State :=
  { State.reset with owner := .depth, tst := ⟨.triggered, .idle⟩, afe := ⟨.depth, .refHigh, true, true, 0⟩ }

/-- A battery conversion done, its completion pending (vector A6). -/
def Tests.batDone : State :=
  { State.reset with
    owner := .bat, tst := ⟨.idle, .triggered⟩, afe := ⟨.bat, .refDefault, true, false, 0x0800⟩
    pend := State.reset.pend.set .bc true }

/-- A depth conversion done with the buffer full (vector A7). -/
def Tests.depthDoneFull : State :=
  { State.reset with
    owner := .depth, tst := ⟨.triggered, .idle⟩, afe := ⟨.depth, .refHigh, true, false, 0x0123⟩
    pend := State.reset.pend.set .dc true, buf := State.reset.buf.set .depth ⟨3, true⟩ }

/-- Reset with both counters running: 150 ticks of WATER, 15 of NET (the vectors of section 2.4). -/
def Tests.counted : State :=
  { State.reset with cls := ⟨⟨150, true, false⟩, ⟨15, true, false⟩⟩ }

/-- `counted` with a level change on WPS latched (vector P2). -/
def Tests.wpsRose : State :=
  { Tests.counted with pin := ⟨true, false, false⟩, pend := State.reset.pend.set .pc true }

/-- A second tick with day 31 held and day 1 on the clock (vector S6). -/
def Tests.newMonth : State :=
  { Tests.pending .st with cal := ⟨.zero, ⟨2026, 1, 31, 0, 0, 0⟩⟩, rtc := ⟨2026, 2, 1, 0, 0, 0⟩ }

/-- Both x and y full (vector A4). -/
def Tests.xyFull : State :=
  { State.reset with buf := ⟨⟨0, false⟩, ⟨0, false⟩, ⟨4, true⟩, ⟨2, true⟩⟩ }

/-- A faulted state. -/
def Tests.faulted : State := State.reset.recordFault .illegalOp 0

/-! ### Well-formed terms -/

/-- A DAY of 256 does not fit 8 bits (R85, R86). -/
theorem test_wf_refuses_wide_day : (Instr.evRtcSet .day 256).wf = false := by decide

theorem test_wf_takes_wide_year : (Instr.evRtcSet .year 65535).wf = true := by decide

theorem test_wf_takes_day_255 : (Instr.evRtcSet .day 255).wf = true := by decide

/-! ### Decoding: words written out from R80, R83, R93 and section 2.1, OPC ++ SEL ++ DATA -/

theorem test_decode_pin_level :
    decode (0b00000001#8 ++ 0b00000000#8 ++ 0b0000000000000001#16) = .ok (.evPinLevel .wps true) := rfl

theorem test_decode_pin_change :
    decode (0b00000010#8 ++ 0b00000000#8 ++ 0b0000000000000000#16) = .ok .evPinChange := rfl

theorem test_decode_timer_tick :
    decode (0b00000011#8 ++ 0b00000001#8 ++ 0b0000000000000000#16) = .ok (.evTimerTick .net) := rfl

theorem test_decode_fast_tick :
    decode (0b00000100#8 ++ 0b00000000#8 ++ 0b0000000000000000#16) = .ok .evFastTick := rfl

theorem test_decode_second_tick :
    decode (0b00000101#8 ++ 0b00000000#8 ++ 0b0000000000000000#16) = .ok .evSecondTick := rfl

theorem test_decode_rtc_set :
    decode (0b00000110#8 ++ 0b00000010#8 ++ 0b0000000000011111#16) = .ok (.evRtcSet .day 31) := rfl

theorem test_decode_trigger_tick :
    decode (0b00000111#8 ++ 0b00000001#8 ++ 0b0000000000000000#16) = .ok (.evTriggerTick .bat) := rfl

theorem test_decode_afe_done :
    decode (0b00001000#8 ++ 0b00000000#8 ++ 0b0001001000110100#16) = .ok (.evAfeDone 0x1234) := rfl

theorem test_decode_dispatch :
    decode (0b00100000#8 ++ 0b00000110#8 ++ 0b0000000000000000#16) = .ok (.dispatch .dc) := rfl

theorem test_decode_read_sample :
    decode (0b01000000#8 ++ 0b00000010#8 ++ 0b0000000000000011#16) = .ok (.hcReadSample .x 3) := rfl

theorem test_decode_read_length :
    decode (0b01000001#8 ++ 0b00000011#8 ++ 0b0000000000000000#16) = .ok (.hcReadLength .y) := rfl

theorem test_decode_read_capacity :
    decode (0b01000010#8 ++ 0b00000001#8 ++ 0b0000000000000000#16) = .ok (.hcReadCapacity .bat) := rfl

theorem test_decode_read_status :
    decode (0b01000011#8 ++ 0b00000000#8 ++ 0b0000000000000000#16) = .ok .hcReadStatus := rfl

theorem test_decode_read_calendar :
    decode (0b01000100#8 ++ 0b00001101#8 ++ 0b0000000000000000#16) = .ok (.hcReadCalendar .cur .second) := rfl

theorem test_decode_reset_buffer :
    decode (0b01000101#8 ++ 0b00000010#8 ++ 0b0000000000000000#16) = .ok (.hcResetBuffer .x) := rfl

theorem test_decode_clear_flag :
    decode (0b01000110#8 ++ 0b00000010#8 ++ 0b0000000000000000#16) = .ok (.hcClearFlag .net) := rfl

/-- The illegal words of section 2.1, each with the decoder's name for what is wrong. -/
theorem test_decode_rejects_bad_selectors :
    decode 0x01030000 = .error .badSelector ∧ decode 0x03020000 = .error .badSelector ∧
    decode 0x06060000 = .error .badSelector ∧ decode 0x07020000 = .error .badSelector ∧
    decode 0x08010000 = .error .badSelector ∧ decode 0x20070000 = .error .badSelector ∧
    decode 0x40040000 = .error .badSelector ∧ decode 0x44060000 = .error .badSelector ∧
    decode 0x44100000 = .error .badSelector ∧ decode 0x46030000 = .error .badSelector :=
  ⟨rfl, rfl, rfl, rfl, rfl, rfl, rfl, rfl, rfl, rfl⟩

theorem test_decode_rejects_bad_data :
    decode 0x01000002 = .error .badData ∧ decode 0x02000001 = .error .badData ∧
    decode 0x06020100 = .error .badData ∧ decode 0x43000001 = .error .badData := ⟨rfl, rfl, rfl, rfl⟩

theorem test_decode_rejects_reserved_opcodes :
    decode 0x00000000 = .error .reservedOpcode ∧ decode 0x09000000 = .error .reservedOpcode ∧
    decode 0x47000000 = .error .reservedOpcode ∧ decode 0xFFFFFFFF = .error .reservedOpcode := ⟨rfl, rfl, rfl, rfl⟩

/-- Section 2.1's words that look odd and are legal. -/
theorem test_decode_takes_extreme_data :
    decode 0x0600FFFF = .ok (.evRtcSet .year 0xFFFF) ∧ decode 0x0800FFFF = .ok (.evAfeDone 0xFFFF) ∧
    decode 0x4003FFFF = .ok (.hcReadSample .y 0xFFFF) := ⟨rfl, rfl, rfl⟩

/-- A table word of 32 bits is a label: `host.rd_cal cur, day` of R93. -/
theorem test_table_word : decodeTableWord 32 0x440A0000 = some (.hcReadCalendar .cur .day) := rfl

/-- R63's file convention: 0x08000A01 stored least-significant byte first. -/
theorem test_labels_of_bytes : labelsOfBytes [0x01, 0x0A, 0x00, 0x08] = some [0x08000A01] := rfl

/-! ### The assembler (R91, R92) -/

theorem test_assemble_line :
    (assembleLine "  host.rd_cal CUR, day ; comment".toList).map encodeAll = some [0x440A0000] := by decide

/-- Program 1's first line. -/
theorem test_assemble_pseudo :
    (assembleLine "ft.run 0x0101, 0x0201".toList).map encodeAll =
      some [0x04000000, 0x20010000, 0x08000101, 0x08000201] := by decide

/-- Digits of either case, and A1's result; a hexadecimal digit is none of a decimal number's. -/
theorem test_assemble_numbers :
    assembleLine "afe.done 0x0A01".toList = some [.evAfeDone 0x0A01] ∧
    assembleLine "afe.done 0xfE9".toList = some [.evAfeDone 4073] ∧
    assembleLine "afe.done 1a".toList = none ∧ assembleLine "afe.done 0x0g".toList = none := by decide

/-- A value that does not fit its field is an assembly error (R91). -/
theorem test_assemble_error :
    assembleLine "rtc.set day, 256".toList = none ∧ assembleLine "pin.level wps, 2".toList = none ∧
    assembleLine "tick.trigger x".toList = none := by decide

/-! ### Environment labels -/

/-- P3's first label: a change drives the pin and latches PC. -/
theorem test_pin_level_change :
    ∃ t, exec (.evPinLevel .wps true) State.reset = .next t ∧ t.pin.wps = true ∧ t.pend.pc = true ∧ t.last.wps = false :=
  ⟨_, rfl, by decide⟩

/-- P6: the same level latches nothing. -/
theorem test_pin_level_same :
    ∃ t, exec (.evPinLevel .wps false) State.reset = .next t ∧ t.pend.pc = false := ⟨_, rfl, by decide⟩

/-- P1. -/
theorem test_pin_change : ∃ t, exec .evPinChange State.reset = .next t ∧ t.pend.pc = true := ⟨_, rfl, by decide⟩

/-- Section 2.3: 0xFFFF wraps to 0 (R137). -/
theorem test_timer_tick_wraps :
    ∃ t, exec (.evTimerTick .water) { State.reset with cls := ⟨⟨0xFFFF, true, false⟩, ⟨5, true, false⟩⟩ } = .next t ∧
      t.cls.water.cnt = 0 ∧ t.cls.net.cnt = 5 := ⟨_, rfl, by decide⟩

/-- Section 2.3: counting goes on in the busy-wait. -/
theorem test_timer_tick_in_wait :
    ∃ t, exec (.evTimerTick .net) Tests.waitX = .next t ∧ t.cls.net.cnt = 1 := ⟨_, rfl, by decide⟩

/-- A5: a fast tick in the busy-wait is latched. -/
theorem test_fast_tick_in_wait :
    ∃ t, exec .evFastTick Tests.waitX = .next t ∧ t.pend.ft = true ∧ t.fst = .waitX := ⟨_, rfl, by decide⟩

theorem test_second_tick : ∃ t, exec .evSecondTick State.reset = .next t ∧ t.pend.st = true := ⟨_, rfl, by decide⟩

/-- Section 2.5: `rtc.set day, 31` writes DAY and nothing else. -/
theorem test_rtc_set_day :
    ∃ t, exec (.evRtcSet .day 31) State.reset = .next t ∧ t.rtc = ⟨0, 0, 31, 0, 0, 0⟩ := ⟨_, rfl, by decide⟩

/-- Section 2.1: YEAR takes all 16 bits. -/
theorem test_rtc_set_year :
    ∃ t, exec (.evRtcSet .year 0xFFFF) State.reset = .next t ∧ t.rtc.year = 0xFFFF := ⟨_, rfl, by decide⟩

/-- R201: SEL 1 is BAT and latches BT, SEL 0 is DEPTH and latches DT. -/
theorem test_trigger_tick :
    (∃ t, exec (.evTriggerTick .bat) State.reset = .next t ∧ t.pend.bt = true ∧ t.pend.dt = false) ∧
    (∃ t, exec (.evTriggerTick .depth) State.reset = .next t ∧ t.pend.dt = true ∧ t.pend.bt = false) :=
  ⟨⟨_, rfl, by decide⟩, ⟨_, rfl, by decide⟩⟩

/-- A1's third label: x[0] = 0x0A01, then the y conversion. -/
theorem test_afe_done_x :
    ∃ t, exec (.evAfeDone 0x0A01) Tests.waitX = .next t ∧ t.mem.read (sampleAddr .x 0) = 0x0A01 ∧
      t.buf.x = ⟨1, false⟩ ∧ t.fst = .waitY ∧ t.afe = ⟨.y, .refHigh, true, true, 0x0A01⟩ := ⟨_, rfl, by decide⟩

/-- A13: a stray completion is blocked. -/
theorem test_afe_done_blocked : exec (.evAfeDone 1) State.reset = .refused .blockedNoConversion := rfl

/-! ### DISPATCH -/

/-- P2: `dispatch pc` classifies WATER at 150 and leaves NET at 15. -/
theorem test_dispatch_pc :
    ∃ t, exec (.dispatch .pc) Tests.wpsRose = .next t ∧ t.cls = ⟨⟨0, true, true⟩, ⟨15, true, false⟩⟩ ∧
      t.last = ⟨true, false, false⟩ ∧ statusWord t = 0x0102 := ⟨_, rfl, by decide⟩

/-- A1's second label in R17's codes: owner 1, chsel 3, ref 1, fst 1. -/
theorem test_dispatch_ft_codes :
    ∃ t, exec (.dispatch .ft) (Tests.pending .ft) = .next t ∧ t.owner.code = 1 ∧ t.afe.chsel.code = 3 ∧
      refCode t.afe.ref = 1 ∧ t.fst.code = 1 := ⟨_, rfl, by decide⟩

/-- A8: FT while a trigger is outstanding; the latch is kept. -/
theorem test_dispatch_conflict :
    ∃ t, exec (.dispatch .ft) { Tests.batBusy with pend := State.reset.pend.set .ft true } = .fault (.afeConflict t) ∧
      t.fault = 2 ∧ t.faultLabel = 0x20010000 ∧ t.pend.ft = true := ⟨_, rfl, by decide⟩

/-! ### Host commands -/

/-- Section 2.7: an index below CAP and above the length reads 0 after reset. -/
theorem test_read_sample_stale :
    ∃ t, exec (.hcReadSample .bat 1) State.reset = .next t ∧ t.hrd = 0 := ⟨_, rfl, by decide⟩

/-- Section 2.7: index 2 of y is out of range. -/
theorem test_read_sample_bad_index :
    ∃ t, exec (.hcReadSample .y 2) State.reset = .fault (.badIndex t) ∧ t.fault = 3 ∧ t.faultLabel = 0x40030002 :=
  ⟨_, rfl, by decide⟩

/-- Section 2.7: x's length after program 1. -/
theorem test_read_length : ∃ t, exec (.hcReadLength .x) Tests.xyFull = .next t ∧ t.hrd = 4 := ⟨_, rfl, by decide⟩

/-- A5: blocked in the busy-wait. -/
theorem test_read_length_blocked : exec (.hcReadLength .x) Tests.waitX = .refused .blockedBusyWait := rfl

/-- Section 2.7. -/
theorem test_read_capacity :
    (∃ t, exec (.hcReadCapacity .depth) State.reset = .next t ∧ t.hrd = 3) ∧
    (∃ t, exec (.hcReadCapacity .bat) State.reset = .next t ∧ t.hrd = 2) := ⟨⟨_, rfl, by decide⟩, ⟨_, rfl, by decide⟩⟩

/-- Program 1: STATUS = 0x0060 with x and y full. -/
theorem test_read_status : ∃ t, exec .hcReadStatus Tests.xyFull = .next t ∧ t.hrd = 0x0060 := ⟨_, rfl, by decide⟩

/-- R235's example: `prev` day 31, `cur` day 1. -/
theorem test_read_calendar :
    let s : State := { State.reset with cal := ⟨⟨2026, 1, 31, 0, 0, 0⟩, ⟨2026, 2, 1, 0, 0, 0⟩⟩ };
    (∃ t, exec (.hcReadCalendar .cur .day) s = .next t ∧ t.hrd = 1) ∧
    (∃ t, exec (.hcReadCalendar .prev .day) s = .next t ∧ t.hrd = 31) := ⟨⟨_, rfl, by decide⟩, ⟨_, rfl, by decide⟩⟩

/-- Section 2.7: `host.reset y`. -/
theorem test_reset_buffer :
    ∃ t, exec (.hcResetBuffer .y) Tests.xyFull = .next t ∧ t.buf.y = ⟨0, false⟩ ∧ statusWord t = 0x0020 :=
  ⟨_, rfl, by decide⟩

/-- R237's example. -/
theorem test_clear_flag :
    ∃ t, exec (.hcClearFlag .midnight) { State.reset with midnight := true } = .next t ∧ t.midnight = false :=
  ⟨_, rfl, by decide⟩

/-! ### Step and decode order -/

/-- D0: in the busy-wait a malformed label faults, where a well-formed one is blocked. -/
theorem test_decode_before_enabling :
    (∃ t, takeLabel 0x41090000 Tests.waitX = .fault (.illegalOp t) ∧ t.fault = 1 ∧ t.faultLabel = 0x41090000) ∧
    takeLabel 0x41020000 Tests.waitX = .refused .blockedBusyWait := ⟨⟨_, rfl, by decide⟩, rfl⟩

/-- X4: after a fault every label is blocked, a malformed one too. -/
theorem test_all_blocked_after_fault :
    takeLabel 0x43000000 Tests.faulted = .refused .blockedFaulted ∧ takeLabel 0 Tests.faulted = .refused .blockedFaulted :=
  ⟨rfl, rfl⟩

/-- The label placed by `withFetchWord` is the one the next step takes. -/
theorem test_step_takes_the_placed_label :
    ∃ t, step (State.reset.withFetchWord 32 0x04000000) = .next t ∧ t.pend.ft = true ∧ t.trace = [] := ⟨_, rfl, by decide⟩

theorem test_step_without_a_label : step State.reset = .refused .noLabel := rfl

/-- Z1: reset is a good end and STATUS reads 0. -/
theorem test_reset_status : statusWord State.reset = 0 := by decide

/-! ### The invariants of R46 in the states the witnesses use -/

/-- The parameters of section 0 are in their domains (R10). -/
theorem vectors_ok : Config.vectors.Ok where
  cap_pos ch := by cases ch <;> decide
  cap_le ch := by cases ch <;> decide
  wT_pos := by decide
  wT_le := by decide
  lo_lt k := by cases k <;> decide
  hi_lt k := by cases k <;> decide
  pc_lowest s h := by cases s <;> first | decide | exact absurd rfl h

theorem vectors_nil_ok : Memory.Ok Config.vectors [] where
  wf := Memory.nil_wf
  exists_at _ h := by simp at h

theorem reset_inv : State.reset.Inv where
  cfg := vectors_ok
  mem := vectors_nil_ok
  cnt_lt k := by cases k <;> decide
  buf ch := by cases ch <;> exact ⟨by decide, by decide⟩
  fast_owner := by decide
  trig_owner c := by cases c <;> decide
  wait_conv := by decide
  done_pending c := by cases c <;> decide
  trig_owes_one c := by cases c <;> decide
  conv_owned := by decide
  running _ k := by cases k <;> rfl

theorem waitX_inv : Tests.waitX.Inv where
  cfg := vectors_ok
  mem := vectors_nil_ok
  cnt_lt k := by cases k <;> decide
  buf ch := by cases ch <;> exact ⟨by decide, by decide⟩
  fast_owner := by decide
  trig_owner c := by cases c <;> decide
  wait_conv := by decide
  done_pending c := by cases c <;> decide
  trig_owes_one c := by cases c <;> decide
  conv_owned := by decide
  running _ k := by cases k <;> rfl

theorem depthDoneFull_inv : Tests.depthDoneFull.Inv where
  cfg := vectors_ok
  mem := vectors_nil_ok
  cnt_lt k := by cases k <;> decide
  buf ch := by cases ch <;> exact ⟨by decide, by decide⟩
  fast_owner := by decide
  trig_owner c := by cases c <;> decide
  wait_conv := by decide
  done_pending c := by cases c <;> decide
  trig_owes_one c := by cases c <;> decide
  conv_owned := by decide
  running _ k := by cases k <;> rfl

/-- x and y full, nothing else. -/
theorem xyFull_inv : Tests.xyFull.Inv where
  cfg := vectors_ok
  mem := vectors_nil_ok
  cnt_lt k := by cases k <;> decide
  buf ch := by cases ch <;> exact ⟨by decide, by decide⟩
  fast_owner := by decide
  trig_owner c := by cases c <;> decide
  wait_conv := by decide
  done_pending c := by cases c <;> decide
  trig_owes_one c := by cases c <;> decide
  conv_owned := by decide
  running _ k := by cases k <;> rfl

/-- The battery buffer full, nothing else. -/
def Tests.batFull : State := { State.reset with buf := State.reset.buf.set .bat ⟨2, true⟩ }

theorem batFull_inv : Tests.batFull.Inv where
  cfg := vectors_ok
  mem := vectors_nil_ok
  cnt_lt k := by cases k <;> decide
  buf ch := by cases ch <;> exact ⟨by decide, by decide⟩
  fast_owner := by decide
  trig_owner c := by cases c <;> decide
  wait_conv := by decide
  done_pending c := by cases c <;> decide
  trig_owes_one c := by cases c <;> decide
  conv_owned := by decide
  running _ k := by cases k <;> rfl

/-! ### Witnesses of the obligations' hypotheses -/

theorem witness_DecodeOfEncode :
    (Instr.evRtcSet .second 255).wf = true ∧ (Instr.hcReadSample .y 65535).wf = true ∧
    (Instr.hcReadCalendar .cur .second).wf = true := by decide

theorem witness_EncodeOfDecode : decode 0x060007EA = .ok (.evRtcSet .year 2026) := rfl

theorem witness_AssembledLines :
    assembleLine "rtc.set day, 255".toList = some [.evRtcSet .day 255] ∧
    assembleLine "host.drain y, 2".toList = some [.hcReadSample .y 0, .hcReadSample .y 1, .hcResetBuffer .y] := by decide

/-- The model's choice for N = 0 (assumption log 11). -/
theorem test_host_drain_zero : assembleLine "host.drain x, 0".toList = some [.hcResetBuffer .x] := by decide

theorem witness_StepRuns :
    (State.reset.withFetchWord 32 0x01000001).trace = [0x01000001] ∧ decode 0x01000001 = .ok (.evPinLevel .wps true) :=
  ⟨rfl, rfl⟩

theorem witness_SteppingThroughATrace :
    State.reset.trace = [] ∧ ∃ t, takeLabels [0x04000000, 0x20010000] State.reset = .next t := ⟨rfl, _, rfl⟩

theorem witness_MalformedLabel :
    State.reset.fault = 0#8 ∧ wfWord 0x01000002 = false ∧ wfWord 0x06060000 = false ∧ wfWord 0x47000000 = false := by
  decide

theorem witness_FaultOutcome :
    (∃ t, takeLabel 0 State.reset = .fault (.illegalOp t)) ∧
    (∃ t, takeLabel 0x20030000 { Tests.batBusy with pend := State.reset.pend.set .bt true } = .fault (.afeConflict t)) ∧
    (∃ t, takeLabel 0x40020004 State.reset = .fault (.badIndex t)) ∧ Tests.faulted.fault ≠ 0#8 :=
  ⟨⟨_, rfl⟩, ⟨_, rfl⟩, ⟨_, rfl⟩, by decide⟩

theorem witness_FaultCauses :
    (∃ r, exec (.dispatch .dt) { Tests.batBusy with pend := State.reset.pend.set .dt true } = .fault r) ∧
    (∃ r, exec (.hcReadSample .x 4) State.reset = .fault r) ∧
    (∃ r, exec (.evAfeDone 1) { Tests.waitX with buf := State.reset.buf.set .x ⟨4, false⟩ } = .fault r) :=
  ⟨⟨_, rfl⟩, ⟨_, rfl⟩, ⟨_, rfl⟩⟩

theorem witness_NoAppendLeavesSampleStorage : Tests.waitX.Inv ∧ Tests.depthDoneFull.Inv := ⟨waitX_inv, depthDoneFull_inv⟩

theorem witness_NextStates : ∃ t, exec .hcReadStatus State.reset = .next t := ⟨_, rfl⟩

theorem witness_NoLabelChangesAParameter : ∃ t, takeLabel 0x08000001 Tests.waitX = .next t := ⟨_, rfl⟩

/-- A live state, and in it a level that is already driven and one that is not. -/
theorem witness_PinLevel :
    State.reset.fault = 0#8 ∧ State.reset.pin.get .aux = false ∧ State.reset.pin.get .aux ≠ true := by decide

theorem witness_TickLabels :
    (Instr.evTriggerTick .depth, Source.dt, (0x07000000 : Word)) ∈
      [(Instr.evPinChange, Source.pc, (0x02000000 : Word)), (.evFastTick, .ft, 0x04000000),
        (.evSecondTick, .st, 0x05000000), (.evTriggerTick .bat, .bt, 0x07010000),
        (.evTriggerTick .depth, .dt, 0x07000000)] ∧
    (Tests.pending .dt).fault = 0#8 ∧ (Tests.pending .dt).pend.get .dt = true := by decide

/-- A counter that runs, at its last count, and one that is stopped. -/
theorem witness_TimerTick :
    let s : State := { State.reset with cls := ⟨⟨0xFFFF, true, false⟩, ⟨7, false, false⟩⟩ };
    s.fault = 0#8 ∧ (s.cls.get .water).run = true ∧ (s.cls.get .net).run = false := by decide

theorem witness_AnInterval :
    State.reset.fault = 0#8 ∧ (State.reset.cls.get .water).run = true ∧ (State.reset.cls.get .water).cnt = 0 := by decide

theorem witness_RtcSet : State.reset.fault = 0#8 := by decide

/-- Blocked as not pending, blocked as deferred, and enabled inside the busy-wait. -/
theorem witness_DispatchIsBlocked :
    State.reset.pend.get .pc = false ∧
    (let s := latch .pc Tests.waitX;
      s.fault = 0#8 ∧ s.fst ≠ .idle ∧ s.pend.get .pc = true ∧ s.cfg.prio.get .pc ≤ s.cfg.prio.get .ft) ∧
    (∃ t, exec (.dispatch .st) (latch .st Tests.waitX) = .next t) ∧ Tests.waitX.cfg.Ok :=
  ⟨by decide, by decide, ⟨_, rfl⟩, vectors_ok⟩

/-- WPS changed and NET not, at both bounds of WATER. -/
theorem witness_PinChangeHandler :
    Tests.wpsRose.fault = 0#8 ∧ Tests.wpsRose.pend.get .pc = true ∧ Tests.wpsRose.fst = .idle ∧
    Tests.wpsRose.pin.get .wps ≠ Tests.wpsRose.last.get .wps ∧
    Tests.wpsRose.pin.get .net = Tests.wpsRose.last.get .net := by decide

theorem witness_Spurious :
    (Tests.pending .pc).fault = 0#8 ∧ (Tests.pending .pc).pend.get .pc = true ∧ (Tests.pending .pc).fst = .idle ∧
    (Tests.pending .pc).last = (Tests.pending .pc).pin := by decide

theorem witness_APinThatReturns :
    Tests.counted.fault = 0#8 ∧ Tests.counted.fst = .idle ∧ Tests.counted.pend.get .pc = false ∧
    Tests.counted.last = Tests.counted.pin := by decide

/-- R132's three cases. -/
theorem witness_ClassificationAtExtremeBounds :
    let s : State := { State.reset with cfg := { Config.vectors with lo := ⟨200, 0⟩, hi := ⟨100, 65535⟩ } };
    s.cfg.hi.get .water < s.cfg.lo.get .water ∧ s.cfg.lo.get .net = 0 ∧ s.cfg.hi.get .net = 2 ^ s.cfg.wT - 1 ∧
    (s.cls.get .net).cnt < 2 ^ s.cfg.wT := by decide

theorem witness_ClassifiersChange :
    (∃ t, exec (.evTimerTick .water) Tests.counted = .next t ∧ t.cls.get .water ≠ Tests.counted.cls.get .water) ∧
    (∃ t, exec (.dispatch .pc) Tests.wpsRose = .next t ∧ t.cls.get .water ≠ Tests.wpsRose.cls.get .water) ∧
    (let s : State := { State.reset with cls := ⟨⟨0, true, true⟩, ⟨0, true, false⟩⟩ };
      ∃ t, exec (.hcClearFlag .water) s = .next t ∧ t.cls.get .water ≠ s.cls.get .water) :=
  ⟨⟨_, rfl, by decide⟩, ⟨_, rfl, by decide⟩, ⟨_, rfl, by decide⟩⟩

/-- Outside the busy-wait, and inside it by priority. -/
theorem witness_SecondTick :
    (Tests.newMonth.fault = 0#8 ∧ Tests.newMonth.pend.get .st = true ∧ Tests.newMonth.fst = .idle) ∧
    (let s := latch .st Tests.waitX;
      s.fault = 0#8 ∧ s.pend.get .st = true ∧ s.cfg.prio.get .ft < s.cfg.prio.get .st) := by decide

theorem witness_Midnight :
    (∃ t, exec (.dispatch .st) Tests.newMonth = .next t ∧ Tests.newMonth.midnight = false ∧ t.midnight = true) ∧
    (∃ t, exec (.hcClearFlag .midnight) { State.reset with midnight := true } = .next t ∧ t.midnight = false) :=
  ⟨⟨_, rfl, by decide⟩, ⟨_, rfl, by decide⟩⟩

/-- One state for each clause: x not full, only y not full, both full, and the front-end held. -/
theorem witness_FastTickHandler :
    (let s := Tests.pending .ft;
      s.fault = 0#8 ∧ s.pend.get .ft = true ∧ s.fst = .idle ∧ (s.buf.get .x).full = false ∧ s.owner = .none) ∧
    (let s := { Tests.pending .ft with buf := State.reset.buf.set .x ⟨4, true⟩ };
      s.fault = 0#8 ∧ s.pend.get .ft = true ∧ s.fst = .idle ∧ (s.buf.get .x).full = true ∧
        (s.buf.get .y).full = false ∧ s.owner = .none) ∧
    (let s := latch .ft Tests.xyFull;
      s.fault = 0#8 ∧ s.pend.get .ft = true ∧ s.fst = .idle ∧ (s.buf.get .x).full = true ∧ (s.buf.get .y).full = true) ∧
    (let s := latch .ft Tests.batBusy;
      s.fault = 0#8 ∧ s.pend.get .ft = true ∧ s.fst = .idle ∧ (s.buf.get .x).full = false ∧ s.owner ≠ .none) := by
  decide

/-- A free front-end, and a held one (vectors A6 and A11). -/
theorem witness_TriggerHandlers :
    (Source.dt, TrigChannel.depth, Owner.depth, AfeSel.depth, (0x20040000 : Word)) ∈
      [(Source.bt, TrigChannel.bat, Owner.bat, AfeSel.bat, (0x20030000 : Word)),
        (.dt, .depth, .depth, .depth, 0x20040000)] ∧
    (let s := Tests.pending .dt;
      s.fault = 0#8 ∧ s.pend.get .dt = true ∧ s.fst = .idle ∧ s.owner = .none) ∧
    (let s := latch .dt Tests.batBusy;
      s.fault = 0#8 ∧ s.pend.get .dt = true ∧ s.fst = .idle ∧ s.owner ≠ .none) := by decide

/-- A buffer with room, and a full one. -/
theorem witness_CompletionHandlers :
    ((Source.bc, TrigChannel.bat, Channel.bat, (0x20050000 : Word)) ∈
        [(Source.bc, TrigChannel.bat, Channel.bat, (0x20050000 : Word)), (.dc, .depth, .depth, 0x20060000)] ∧
      Tests.batDone.fault = 0#8 ∧ Tests.batDone.pend.get .bc = true ∧ Tests.batDone.fst = .idle ∧ Tests.batDone.mem.wf ∧
      (Tests.batDone.buf.get .bat).len.toNat < Tests.batDone.cfg.cap.get .bat) ∧
    (Tests.depthDoneFull.fault = 0#8 ∧ Tests.depthDoneFull.pend.get .dc = true ∧ Tests.depthDoneFull.fst = .idle ∧
      Tests.depthDoneFull.mem.wf ∧ (Tests.depthDoneFull.buf.get .depth).full = true) := by decide

theorem witness_CompletionOfATriggered :
    (State.reset.fault = 0#8 ∧ State.reset.afe.conv = false) ∧
    (Tests.batBusy.fault = 0#8 ∧ Tests.batBusy.afe.conv = true ∧ Tests.batBusy.owner = .bat) ∧
    (Tests.depthBusy.fault = 0#8 ∧ Tests.depthBusy.afe.conv = true ∧ Tests.depthBusy.owner = .depth) ∧
    (let s : State := { Tests.batBusy with owner := .none };
      s.fault = 0#8 ∧ s.afe.conv = true ∧ s.owner = .none) := by decide

/-- y not full, y full, x with room for one, and x full. -/
theorem witness_CompletionOfX :
    (let s : State := { Tests.waitX with buf := State.reset.buf.set .x ⟨3, false⟩ };
      s.fault = 0#8 ∧ s.afe.conv = true ∧ s.owner = .fast ∧ s.fst = .waitX ∧ s.mem.wf ∧
        (s.buf.get .x).len.toNat < s.cfg.cap.get .x ∧ (s.buf.get .x).full = false ∧ (s.buf.get .y).full = false) ∧
    (let s : State := { Tests.waitX with buf := Tests.xyFull.buf };
      s.fault = 0#8 ∧ s.afe.conv = true ∧ s.owner = .fast ∧ s.fst = .waitX ∧ s.mem.wf ∧
        (s.buf.get .x).full = true ∧ (s.buf.get .y).full = true) := by decide

theorem witness_CompletionOfY :
    (Tests.waitY.fault = 0#8 ∧ Tests.waitY.afe.conv = true ∧ Tests.waitY.owner = .fast ∧ Tests.waitY.fst = .waitY ∧
      Tests.waitY.mem.wf ∧ (Tests.waitY.buf.get .y).len.toNat < Tests.waitY.cfg.cap.get .y ∧
      (Tests.waitY.buf.get .y).full = false) ∧
    (let s : State := { Tests.waitY with buf := Tests.xyFull.buf };
      s.fault = 0#8 ∧ s.afe.conv = true ∧ s.owner = .fast ∧ s.fst = .waitY ∧ s.mem.wf ∧ (s.buf.get .y).full = true) := by
  decide

theorem witness_OnlyACompletion :
    ∃ t, exec (.evAfeDone 0x0B01) Tests.waitY = .next t ∧ Tests.waitY.fst ≠ .idle ∧ t.fst ≠ Tests.waitY.fst :=
  ⟨_, rfl, by decide⟩

/-- Reset meets the hypotheses of the fast tick's statement, and of the trigger cycle's clause of a buffer with room;
`batFull` those of its other clause. -/
theorem witness_FastTickAndTriggerCycle :
    (State.reset.Inv ∧ State.reset.fault = 0#8 ∧ State.reset.fst = .idle ∧ State.reset.owner = .none ∧
      (State.reset.buf.get .x).full = false ∧ (State.reset.buf.get .y).full = false ∧
      (State.reset.buf.get .bat).full = false) ∧
    (Tests.batFull.Inv ∧ Tests.batFull.fault = 0#8 ∧ Tests.batFull.fst = .idle ∧ Tests.batFull.owner = .none ∧
      (Tests.batFull.buf.get .bat).full = true) :=
  ⟨⟨reset_inv, by decide⟩, ⟨batFull_inv, by decide⟩⟩

theorem witness_TriggerStates :
    (∃ t, exec (.dispatch .bt) (Tests.pending .bt) = .next t ∧ t.tst.get .bat ≠ (Tests.pending .bt).tst.get .bat) ∧
    (∃ t, exec (.dispatch .bc) Tests.batDone = .next t ∧ t.tst.get .bat ≠ Tests.batDone.tst.get .bat) :=
  ⟨⟨_, rfl, by decide⟩, ⟨_, rfl, by decide⟩⟩

/-- A full buffer, and one with room for its last sample. -/
theorem witness_TryAppend :
    (Tests.batFull.buf.get .bat).full = true ∧
    (let s : State := { State.reset with buf := State.reset.buf.set .x ⟨3, false⟩ };
      s.mem.wf ∧ (s.buf.get .x).full = false ∧ (s.buf.get .x).len.toNat < s.cfg.cap.get .x ∧
        s.cfg.cap.get .x ≤ 65535) := by decide

theorem witness_CapacityMany :
    State.reset.cfg.Ok ∧ State.reset.mem.wf ∧ State.reset.buf.get .bat = ⟨0, false⟩ ∧
    ([0x0011, 0x0022] : List Sample).length = State.reset.cfg.cap.get .bat := ⟨vectors_ok, by decide⟩

theorem witness_Lengths :
    Tests.batDone.cfg.Ok ∧ (∃ t, exec (.dispatch .bc) Tests.batDone = .next t) ∧
    Instr.dispatch .bc ≠ .hcResetBuffer .bat := ⟨vectors_ok, ⟨_, rfl⟩, by decide⟩

theorem witness_SamplesAreWritten :
    (∃ t, exec (.dispatch .bc) Tests.batDone = .next t ∧
      t.mem.read (sampleAddr .bat 0) ≠ Tests.batDone.mem.read (sampleAddr .bat 0)) ∧
    (∃ t, exec (.evAfeDone 0x0A01) Tests.waitX = .next t ∧
      t.mem.read (sampleAddr .x 0) ≠ Tests.waitX.mem.read (sampleAddr .x 0)) := ⟨⟨_, rfl, by decide⟩, ⟨_, rfl, by decide⟩⟩

theorem witness_CanonicalStorages :
    Memory.wf [(65536, 1), (196609, 2)] ∧
    ∀ a, Memory.read [(65536, 1), (196609, 2)] a = Memory.read [(65536, 1), (196609, 2)] a := ⟨by decide, fun _ => rfl⟩

/-- The last index below the capacity, the first at it, and the busy-wait. -/
theorem witness_ReadSample :
    State.reset.fault = 0#8 ∧ State.reset.fst = .idle ∧ (3 : BitVec 16).toNat < State.reset.cfg.cap.get .x ∧
    State.reset.cfg.cap.get .x ≤ (4 : BitVec 16).toNat ∧ Tests.waitX.fault = 0#8 ∧ Tests.waitX.fst ≠ .idle := by decide

/-- Of the other reads, of HC_RESET_BUFFER and of HC_CLEAR_FLAG. -/
theorem witness_HostCommandEnabled :
    Tests.xyFull.fault = 0#8 ∧ Tests.xyFull.fst = .idle ∧ Tests.xyFull.cfg.cap.get .x ≤ 65535 := by decide

theorem witness_HostCommandsBlocked :
    Instr.hcReadStatus.labelClass = .host ∧ (∃ r, exec .hcReadStatus Tests.waitX = .refused r) ∧
    (∃ r, exec .hcReadStatus Tests.faulted = .refused r) := ⟨rfl, ⟨_, rfl⟩, ⟨_, rfl⟩⟩

/-- Of what the host changes, and of its commands' idempotence: a read, a clear and a reset that change something. -/
theorem witness_HostCommandsRun :
    (Instr.hcReadLength .x).labelClass = .host ∧ (∃ t, exec (.hcReadLength .x) Tests.xyFull = .next t ∧ t.hrd ≠ 0) ∧
    (Instr.hcResetBuffer .x).labelClass = .host ∧
    (∃ t, exec (.hcResetBuffer .x) Tests.xyFull = .next t ∧ t.buf.get .x ≠ Tests.xyFull.buf.get .x) ∧
    (Instr.hcClearFlag .midnight).labelClass = .host ∧
    (∃ t, exec (.hcClearFlag .midnight) { State.reset with midnight := true } = .next t ∧ t.midnight ≠ true) :=
  ⟨rfl, ⟨_, rfl, by decide⟩, rfl, ⟨_, rfl, by decide⟩, rfl, ⟨_, rfl, by decide⟩⟩

theorem witness_TheEnvironment :
    (Instr.evPinLevel .net true).labelClass = .env ∧ (∀ v, Instr.evPinLevel .net true ≠ .evAfeDone v) ∧
    ∃ t, exec (.evPinLevel .net true) State.reset = .next t := ⟨rfl, fun _ h => Instr.noConfusion h, ⟨_, rfl⟩⟩

/-- A latch cleared, and one raised by its own label. -/
theorem witness_Latches :
    (∃ t, exec (.dispatch .st) Tests.newMonth = .next t ∧ Tests.newMonth.pend.get .st = true ∧ t.pend.get .st = false) ∧
    (∃ t, exec (.evAfeDone 0x0800) Tests.batBusy = .next t ∧ Tests.batBusy.pend.get .bc = false ∧ t.pend.get .bc = true) :=
  ⟨⟨_, rfl, by decide⟩, ⟨_, rfl, by decide⟩⟩

theorem witness_RaisesCommute :
    (Instr.evFastTick = .evPinChange ∨ Instr.evFastTick = .evFastTick ∨ Instr.evFastTick = .evSecondTick ∨
      ∃ c, Instr.evFastTick = .evTriggerTick c) ∧
    (Instr.evTriggerTick .bat = .evPinChange ∨ Instr.evTriggerTick .bat = .evFastTick ∨
      Instr.evTriggerTick .bat = .evSecondTick ∨ ∃ c, Instr.evTriggerTick .bat = .evTriggerTick c) :=
  ⟨.inr (.inl rfl), .inr (.inr (.inr ⟨.bat, rfl⟩))⟩

/-- X3: both orders run. -/
theorem witness_DisjointHandlers :
    let s := latch .st Tests.wpsRose;
    s.fst = .idle ∧ (∃ t, takeLabels (encodeAll [.dispatch .pc, .dispatch .st]) s = .next t) := ⟨rfl, ⟨_, rfl⟩⟩

theorem witness_ResetMeetsTheInvariants : Config.vectors.Ok := vectors_ok

theorem witness_EveryStep :
    (Tests.waitX.withFetchWord 32 0x08000A01).Inv ∧ ∃ t, step (Tests.waitX.withFetchWord 32 0x08000A01) = .next t :=
  ⟨{ waitX_inv with }, ⟨_, rfl⟩⟩

theorem witness_AGoodEnd : Tests.waitX.Inv ∧ Tests.waitX.fault = 0#8 ∧ Tests.depthDoneFull.Inv ∧ Tests.depthDoneFull.fault = 0#8 :=
  ⟨waitX_inv, by decide, depthDoneFull_inv, by decide⟩
end

section
/-! The next states of a label in the other direction: what `Effect` gives, `exec` answers. -/

namespace Sys2Proof.Machine

/-- An append answers the storage and buffers that `Appended` allows (R110, R111). -/
theorem append_of_appended {ch : Channel} {v : Sample} {s : State} {m : Memory} {b : ByChannel Buffer}
    (h : Appended ch v s m b) : append ch v s = .ok { s with mem := m, buf := b } := by
  rcases h with ⟨hf, rfl, rfl⟩ | ⟨hf, hl, rfl, rfl⟩
  · exact append_full hf v
  · exact append_room hf hl v

/-- The converse of `handlerDone_appended` (R202). -/
theorem handlerDone_of_appended {c : TrigChannel} {s : State} {m : Memory} {b : ByChannel Buffer}
    (h : Appended (trigBuffer c) s.afe.res s m b) :
    handlerDone c s = .ok { s with mem := m, buf := b, owner := .none, tst := s.tst.set c .idle } := by
  simp [handlerDone, append_of_appended h]

/-- The continuation after the x conversion, with `m` and `b` what its append leaves (R196). -/
theorem ftContinue_of_appended_x {s : State} {m : Memory} {b : ByChannel Buffer} (hw : s.fst = .waitX)
    (h : Appended .x s.afe.res s m b) :
    ftContinue s = .ok (goToY (restoreRef { stopConv s with mem := m, buf := b })) := by
  have ha : append .x s.afe.res (stopConv s) = .ok { stopConv s with mem := m, buf := b } := append_of_appended h
  simp [ftContinue, hw, ha]

/-- The continuation after the y conversion, with `m` and `b` what its append leaves (R196). -/
theorem ftContinue_of_appended_y {s : State} {m : Memory} {b : ByChannel Buffer} (hw : s.fst ≠ .waitX)
    (h : Appended .y s.afe.res s m b) :
    ftContinue s = .ok (endFast (restoreRef { stopConv s with mem := m, buf := b })) := by
  have ha : append .y s.afe.res (stopConv s) = .ok { stopConv s with mem := m, buf := b } := append_of_appended h
  simp [ftContinue, hw, ha]

theorem goToY_open {s : State} (h : s.buf.y.full = false) :
    goToY s = { startConv .y .refHigh s with fst := .waitY } := by simp [goToY, h]

theorem goToY_full {s : State} (h : s.buf.y.full = true) : goToY s = endFast s := by simp [goToY, h]

theorem routeDone_fast {s : State} (h : s.owner = .fast) : routeDone s = ftContinue s := by simp [routeDone, h]

theorem routeDone_bat {s : State} (h : s.owner = .bat) : routeDone s = .ok (latch .bc s) := by simp [routeDone, h]

theorem routeDone_depth {s : State} (h : s.owner = .depth) : routeDone s = .ok (latch .dc s) := by simp [routeDone, h]

theorem routeDone_unowned {s : State} (h : s.owner = .none) : routeDone s = .ok s := by simp [routeDone, h]

/-- The converse of `exec_next`: from a non-faulted state, a label answers every next state that `Effect` gives. -/
theorem exec_of_effect {i : Instr} {s t : State} (hf : s.fault = 0#8) (h : Effect i s t) : exec i s = .next t := by
  cases h with
  | pinSame _ _ _ hp => exact (ifLive_of_live hf _).trans (by rw [if_pos hp])
  | pinChanged _ _ _ hp => exact (ifLive_of_live hf _).trans (by rw [if_neg hp]; rfl)
  | pinNotified | counted | fastTick | secondTick | rtcSet | triggerTick => exact ifLive_of_live hf _
  | doneBat _ _ hc ho => exact execEvAfeDone_eq_next.mpr ⟨hf, hc, routeDone_bat ho⟩
  | doneDepth _ _ hc ho => exact execEvAfeDone_eq_next.mpr ⟨hf, hc, routeDone_depth ho⟩
  | doneUnowned _ _ hc ho => exact execEvAfeDone_eq_next.mpr ⟨hf, hc, routeDone_unowned ho⟩
  | doneXThenY v _ m b hc ho hw ha hy =>
    refine execEvAfeDone_eq_next.mpr ⟨hf, hc, ?_⟩
    rw [routeDone_fast (s := latchResult v s) ho, ftContinue_of_appended_x (s := latchResult v s) hw ha, goToY_open hy]
    rfl
  | doneXThenEnd v _ m b hc ho hw ha hy =>
    refine execEvAfeDone_eq_next.mpr ⟨hf, hc, ?_⟩
    rw [routeDone_fast (s := latchResult v s) ho, ftContinue_of_appended_x (s := latchResult v s) hw ha, goToY_full hy]
    rfl
  | doneY v _ m b hc ho hw ha =>
    refine execEvAfeDone_eq_next.mpr ⟨hf, hc, ?_⟩
    rw [routeDone_fast (s := latchResult v s) ho, ftContinue_of_appended_y (s := latchResult v s) hw ha]
    rfl
  | pinHandler _ hp ha => exact execDispatch_eq_next.mpr ⟨hf, hp, ha, congrArg Except.ok (handlerPC_eq _)⟩
  | secondHandler _ hp ha => exact execDispatch_eq_next.mpr ⟨hf, hp, ha, rfl⟩
  | fastHandlerX _ hp ha hx ho =>
    exact execDispatch_eq_next.mpr ⟨hf, hp, ha, handlerFT_eq_ok.mpr (.inl ⟨hx, ho, rfl⟩)⟩
  | fastHandlerY _ hp ha hx hy ho =>
    exact execDispatch_eq_next.mpr ⟨hf, hp, ha, handlerFT_eq_ok.mpr (.inr (.inl ⟨hx, hy, ho, rfl⟩))⟩
  | fastHandlerFull _ hp ha hx hy =>
    exact execDispatch_eq_next.mpr ⟨hf, hp, ha, handlerFT_eq_ok.mpr (.inr (.inr ⟨hx, hy, rfl⟩))⟩
  | batTrigger _ hp ha ho | depthTrigger _ hp ha ho =>
    exact execDispatch_eq_next.mpr ⟨hf, hp, ha, handlerTrig_eq_ok.mpr ⟨ho, rfl⟩⟩
  | batCompletion _ _ _ hp ha hm =>
    exact execDispatch_eq_next.mpr ⟨hf, hp, ha, handlerDone_of_appended (c := .bat) (s := unlatch .bc s) hm⟩
  | depthCompletion _ _ _ hp ha hm =>
    exact execDispatch_eq_next.mpr ⟨hf, hp, ha, handlerDone_of_appended (c := .depth) (s := unlatch .dc s) hm⟩
  | sampleRead _ _ _ hi hl => exact (ifHostEnabled_of_enabled hf hi _).trans (by rw [if_pos hl]; rfl)
  | lengthRead _ _ hi | capacityRead _ _ hi | statusRead _ hi | calendarRead _ _ _ hi | bufferReset _ _ hi
  | midnightCleared _ hi | waterCleared _ hi | netCleared _ hi => exact ifHostEnabled_of_enabled hf hi _

/-- The next states of a label, exactly. -/
theorem exec_eq_next {i : Instr} {s t : State} : exec i s = .next t ↔ s.fault = 0#8 ∧ Effect i s t :=
  ⟨exec_next, fun ⟨hf, h⟩ => exec_of_effect hf h⟩

end Sys2Proof.Machine
end

section
/-! No meaning reads or writes `trace`, and what follows for a step and for a run (R305, assumption log 1). -/

namespace Sys2Proof.Machine

/-- The same state with the labels `q` waiting. -/
def State.withTrace (q : List Word) (s : State) : State := { s with trace := q }

@[simp] theorem State.withTrace_trace (q : List Word) (s : State) : (s.withTrace q).trace = q := rfl

@[simp] theorem State.withTrace_withTrace (q r : List Word) (s : State) :
    (s.withTrace q).withTrace r = s.withTrace r := rfl

theorem State.withTrace_of_trace {q : List Word} {s : State} (h : s.trace = q) : s.withTrace q = s := by
  subst h
  rfl

theorem Effect.trace_eq {i : Instr} {s t : State} (h : Effect i s t) : t.trace = s.trace := by
  cases h <;> rfl

/-- Whatever labels are waiting, a label has the same effect on the rest of the state. The two cases named are the ones
that end in the same state, so that `constructor` cannot tell them apart. -/
theorem Effect.withTrace {i : Instr} {s t : State} (q : List Word) (h : Effect i s t) :
    Effect i (s.withTrace q) (t.withTrace q) := by
  cases h with
  | doneXThenEnd v _ m b hc ho hw ha hy => exact .doneXThenEnd v _ m b hc ho hw ha hy
  | doneY v _ m b hc ho hw ha => exact .doneY v _ m b hc ho hw ha
  | _ => constructor <;> assumption

theorem takeLabel_of_decode {w : Word} {i : Instr} (h : decode w = .ok i) (s : State) : takeLabel w s = exec i s := by
  simp [takeLabel, h]

/-- A label word answers a next state only where it decodes, and then one that `Effect` gives. -/
theorem takeLabel_eq_next {w : Word} {s t : State} :
    takeLabel w s = .next t ↔ ∃ i, decode w = .ok i ∧ s.fault = 0#8 ∧ Effect i s t := by
  cases hd : decode w with
  | ok i => simp [takeLabel_of_decode hd, exec_eq_next]
  | error e => simp [takeLabel, hd, ifLive_eq_next, raiseFault_ne_next]

theorem takeLabel_trace_eq {w : Word} {s t : State} (h : takeLabel w s = .next t) : t.trace = s.trace := by
  obtain ⟨i, -, -, he⟩ := takeLabel_eq_next.mp h
  exact he.trace_eq

theorem takeLabel_withTrace {w : Word} {s t : State} (q : List Word) (h : takeLabel w s = .next t) :
    takeLabel w (s.withTrace q) = .next (t.withTrace q) := by
  obtain ⟨i, hd, hf, he⟩ := takeLabel_eq_next.mp h
  exact takeLabel_eq_next.mpr ⟨i, hd, hf, he.withTrace q⟩

/-- A step takes the next waiting label (R16). -/
theorem step_of_trace {s : State} {w : Word} {rest : List Word} (h : s.trace = w :: rest) :
    step s = takeLabel w (s.withTrace rest) := by
  simp [step, h, State.withTrace]

theorem takeLabels_cons_eq_next {w : Word} {ws : List Word} {s t : State} :
    takeLabels (w :: ws) s = .next t ↔ ∃ u, takeLabel w s = .next u ∧ takeLabels ws u = .next t := by
  rw [takeLabels]
  cases takeLabel w s <;> simp

theorem run_succ_eq_next {k : Nat} {s t : State} :
    Host.Core.run Sys2Proof.core (k + 1) s = .next t ↔
      ∃ u, step s = .next u ∧ Host.Core.run Sys2Proof.core k u = .next t := by
  simp only [Host.Core.run, Sys2Proof.core]
  cases step s <;> simp

/-- One step with `w :: ws` waiting, from a state that waits for nothing: `w` runs and `ws` stays waiting. -/
theorem step_withTrace_cons_eq_next {w : Word} {ws : List Word} {s u : State} (hs : s.trace = []) :
    step (s.withTrace (w :: ws)) = .next u ↔ ∃ v, takeLabel w s = .next v ∧ u = v.withTrace ws := by
  rw [step_of_trace (State.withTrace_trace _ s), State.withTrace_withTrace]
  constructor
  · intro h
    have hu : u.withTrace ws = u := State.withTrace_of_trace (takeLabel_trace_eq h)
    have hv : takeLabel w s = .next (u.withTrace []) := by
      simpa [State.withTrace_of_trace hs] using takeLabel_withTrace [] h
    exact ⟨u.withTrace [], hv, by rw [State.withTrace_withTrace, hu]⟩
  · rintro ⟨v, hv, rfl⟩
    exact takeLabel_withTrace ws hv

/-- The same for a run whose first step takes `w`. -/
theorem run_withTrace_cons_eq_next {k : Nat} {w : Word} {ws : List Word} {s t : State} (hs : s.trace = []) :
    Host.Core.run Sys2Proof.core (k + 1) (s.withTrace (w :: ws)) = .next t ↔
      ∃ v, takeLabel w s = .next v ∧ Host.Core.run Sys2Proof.core k (v.withTrace ws) = .next t := by
  rw [run_succ_eq_next]
  constructor
  · rintro ⟨u, hu, hr⟩
    obtain ⟨v, hv, rfl⟩ := (step_withTrace_cons_eq_next hs).mp hu
    exact ⟨v, hv, hr⟩
  · rintro ⟨v, hv, hr⟩
    exact ⟨v.withTrace ws, (step_withTrace_cons_eq_next hs).mpr ⟨v, hv, rfl⟩, hr⟩

/-- Settles O8, by induction on the labels: each step takes the first one, and leaves the rest waiting. -/
theorem steppingThroughATraceTakesItsLabels : Obligations.SteppingThroughATraceTakesItsLabels := by
  intro ws
  induction ws with
  | nil =>
    intro s t hs
    change Host.Outcome.next (s.withTrace []) = .next t ↔ Host.Outcome.next s = .next t
    rw [State.withTrace_of_trace hs]
    exact Iff.rfl
  | cons w ws ih =>
    intro s t hs
    calc Host.Core.run Sys2Proof.core (ws.length + 1) (s.withTrace (w :: ws)) = .next t
        ↔ ∃ v, takeLabel w s = .next v ∧ Host.Core.run Sys2Proof.core ws.length (v.withTrace ws) = .next t :=
          run_withTrace_cons_eq_next hs
      _ ↔ ∃ v, takeLabel w s = .next v ∧ takeLabels ws v = .next t :=
          exists_congr fun v => and_congr_right fun hv => ih v t ((takeLabel_trace_eq hv).trans hs)
      _ ↔ takeLabels (w :: ws) s = .next t := takeLabels_cons_eq_next.symm

/-- Settles O7: the step takes the label off `trace`, and a label that decodes runs what it decodes to. -/
theorem stepRunsTheDecodedLabel : Obligations.StepRunsTheDecodedLabel := by
  intro s w rest i htrace hdecode
  exact (step_of_trace htrace).trans (takeLabel_of_decode hdecode _)

end Sys2Proof.Machine
end

section
/-! The enumeration codes of R17. -/

namespace Sys2Proof.Machine

/-- `chsel(ch) = ch + 1` as numbers: no channel's code is lost in the three bits of `chselOf_code` (R17). -/
theorem chselOf_code_toNat (ch : Channel) : (chselOf ch).code.toNat = ch.code.toNat + 1 := by
  rw [chselOf_code]
  cases ch <;> rfl

/-- Settles O60: each set of R17 is finite and its codes compute; `chsel` is `chselOf_code_toNat`. -/
theorem enumerationCodesAreAsListed : Obligations.EnumerationCodesAreAsListed :=
  ⟨rfl, rfl, rfl, rfl, rfl, rfl, rfl, rfl, rfl, rfl, rfl, rfl, rfl, chselOf_code_toNat⟩

end Sys2Proof.Machine
end

section
/-! The invariants of R46 in three parts, each over the fields it speaks of: sample storage, the classifiers' counters,
and who holds the analog front-end. Every `Effect` keeps each part. -/

namespace Sys2Proof.Machine

/-! ### Sample storage: invariants 1 and 2, and the addresses of R60 -/

/-- The buffers are within their capacities and storage lists only entries that exist. -/
structure StorageOk (cfg : Config) (m : Memory) (b : ByChannel Buffer) : Prop where
  mem : m.Ok cfg
  buf : ∀ ch, (b.get ch).Ok (cfg.cap.get ch)

/-- Invariants 1 and 2 leave no buffer with room at or above its capacity (R65). -/
theorem Buffer.Ok.len_lt {cap : Nat} {b : Buffer} (h : b.Ok cap) (hf : b.full = false) : b.len.toNat < cap := by
  have hne : b.len.toNat ≠ cap := fun e => by simp [h.full_iff.mpr e] at hf
  exact Nat.lt_of_le_of_ne h.len_le hne

theorem Buffer.empty_ok {cap : Nat} (hc : 1 ≤ cap) : Buffer.Ok cap ⟨0, false⟩ where
  len_le := Nat.zero_le _
  full_iff := ⟨nofun, fun h => absurd h (Nat.ne_of_lt hc)⟩

/-- A buffer that has taken one sample more, with its full flag computed anew (R110). -/
theorem Buffer.appended_ok {cap : Nat} {len : BitVec 16} (hl : len.toNat < cap) (hc : cap ≤ 65535) :
    Buffer.Ok cap ⟨len + 1, fullAt cap (len + 1)⟩ where
  len_le := by
    rw [len_succ_toNat hl hc]
    exact hl
  full_iff := fullAt_iff _ _

theorem ByChannel.set_bufferOk {cfg : Config} {b : ByChannel Buffer} {ch : Channel} {v : Buffer}
    (hb : ∀ d, (b.get d).Ok (cfg.cap.get d)) (hv : v.Ok (cfg.cap.get ch)) (d : Channel) :
    ((b.set ch v).get d).Ok (cfg.cap.get d) := by
  rw [ByChannel.get_set]
  split
  · next hd =>
    subst hd
    exact hv
  · exact hb d

theorem Memory.Ok.write {cfg : Config} {m : Memory} (h : m.Ok cfg) {ch : Channel} {i : BitVec 16}
    (hi : i.toNat < cfg.cap.get ch) (v : Sample) : (m.write (sampleAddr ch i) v).Ok cfg where
  wf := Memory.write_wf m h.wf _ v
  exists_at c hc := by
    rcases Memory.mem_write m _ v c hc with hc | ⟨rfl, -⟩
    · exact h.exists_at c hc
    · exact ⟨ch, i, rfl, hi⟩

theorem Appended.storageOk {ch : Channel} {v : Sample} {s : State} {m : Memory} {b : ByChannel Buffer}
    (ha : Appended ch v s m b) (hc : s.cfg.Ok) (h : StorageOk s.cfg s.mem s.buf) : StorageOk s.cfg m b := by
  rcases ha with ⟨-, rfl, rfl⟩ | ⟨-, hl, rfl, rfl⟩
  · exact h
  · exact ⟨h.mem.write hl v, ByChannel.set_bufferOk h.buf (Buffer.appended_ok hl (hc.cap_le ch))⟩

theorem Effect.storageOk {i : Instr} {s t : State} (he : Effect i s t) (hc : s.cfg.Ok)
    (h : StorageOk s.cfg s.mem s.buf) : StorageOk t.cfg t.mem t.buf := by
  cases he with
  | doneXThenY _ _ _ _ _ _ _ ha | doneXThenEnd _ _ _ _ _ _ _ ha | doneY _ _ _ _ _ _ _ ha
  | batCompletion _ _ _ _ _ ha | depthCompletion _ _ _ _ _ ha => exact ha.storageOk hc h
  | bufferReset ch _ _ => exact ⟨h.mem, ByChannel.set_bufferOk h.buf (Buffer.empty_ok (hc.cap_pos ch))⟩
  | _ => exact h

/-! ### The counters: their range (R26) and invariant 8 -/

/-- The count is a W_T-bit number, and the counter runs where reset starts it. -/
structure ClassifierState.Ok (cfg : Config) (c : ClassifierState) : Prop where
  cnt_lt : c.cnt < 2 ^ cfg.wT
  running : cfg.tmrRunInit = true → c.run = true

theorem ClassifierState.zero_ok {cfg : Config} {run : Bool} (hr : cfg.tmrRunInit = true → run = true) (active : Bool) :
    ClassifierState.Ok cfg ⟨0, run, active⟩ where
  cnt_lt := Nat.two_pow_pos _
  running := hr

theorem ClassifierState.Ok.countTick {cfg : Config} {c : ClassifierState} (h : c.Ok cfg) :
    (countTick cfg.wT c).Ok cfg := by
  unfold Machine.countTick
  split
  · exact ⟨Nat.mod_lt _ (Nat.two_pow_pos _), h.running⟩
  · exact h

theorem ClassifierState.Ok.reclassified {cfg : Config} {c : ClassifierState} (h : c.Ok cfg) (changed : Bool)
    (lo hi : Nat) : (reclassified changed lo hi c).Ok cfg := by
  cases changed
  · exact h
  · exact zero_ok (fun _ => rfl) _

theorem ClassifierState.Ok.setActive {cfg : Config} {c : ClassifierState} (h : c.Ok cfg) (active : Bool) :
    ClassifierState.Ok cfg { c with active := active } where
  cnt_lt := h.cnt_lt
  running := h.running

theorem ByClassifier.set_ok {cfg : Config} {b : ByClassifier ClassifierState} {k : Classifier} {c : ClassifierState}
    (hb : ∀ j, (b.get j).Ok cfg) (hc : c.Ok cfg) (j : Classifier) : ((b.set k c).get j).Ok cfg := by
  rw [ByClassifier.get_set]
  split
  · exact hc
  · exact hb j

theorem Effect.countersOk {i : Instr} {s t : State} (he : Effect i s t) (h : ∀ k, (s.cls.get k).Ok s.cfg) (k : Classifier) :
    (t.cls.get k).Ok t.cfg := by
  cases he with
  | counted j _ => exact ByClassifier.set_ok h (h j).countTick k
  | pinHandler =>
    cases k
    · exact (h .water).reclassified _ _ _
    · exact (h .net).reclassified _ _ _
  | waterCleared => exact ByClassifier.set_ok h ((h .water).setActive false) k
  | netCleared => exact ByClassifier.set_ok h ((h .net).setActive false) k
  | _ => exact h k

/-! ### The analog front-end: invariants 3 to 7 -/

/-- What invariants 3 to 7 say for each holder of the front-end. A trigger owes exactly one of a conversion in flight and
its completion source pending. -/
def FrontEndOk (s : State) : Prop :=
  match s.owner with
  | .none => s.fst = .idle ∧ s.tst = ⟨.idle, .idle⟩ ∧ s.afe.conv = false ∧ s.pend.bc = false ∧ s.pend.dc = false
  | .fast => s.fst ≠ .idle ∧ s.tst = ⟨.idle, .idle⟩ ∧ s.afe.conv = true ∧ s.afe.en = true ∧
      s.pend.bc = false ∧ s.pend.dc = false
  | .bat => s.fst = .idle ∧ s.tst = ⟨.idle, .triggered⟩ ∧ s.afe.conv = !s.pend.bc ∧
      (s.afe.conv = true → s.afe.en = true) ∧ s.pend.dc = false
  | .depth => s.fst = .idle ∧ s.tst = ⟨.triggered, .idle⟩ ∧ s.afe.conv = !s.pend.dc ∧
      (s.afe.conv = true → s.afe.en = true) ∧ s.pend.bc = false

theorem frontEndOk_none {s : State} (h : s.owner = .none) : FrontEndOk s ↔
    s.fst = .idle ∧ s.tst = ⟨.idle, .idle⟩ ∧ s.afe.conv = false ∧ s.pend.bc = false ∧ s.pend.dc = false := by
  simp [FrontEndOk, h]

theorem frontEndOk_fast {s : State} (h : s.owner = .fast) : FrontEndOk s ↔
    s.fst ≠ .idle ∧ s.tst = ⟨.idle, .idle⟩ ∧ s.afe.conv = true ∧ s.afe.en = true ∧
      s.pend.bc = false ∧ s.pend.dc = false := by
  simp [FrontEndOk, h]

theorem frontEndOk_bat {s : State} (h : s.owner = .bat) : FrontEndOk s ↔
    s.fst = .idle ∧ s.tst = ⟨.idle, .triggered⟩ ∧ s.afe.conv = !s.pend.bc ∧
      (s.afe.conv = true → s.afe.en = true) ∧ s.pend.dc = false := by
  simp [FrontEndOk, h]

theorem frontEndOk_depth {s : State} (h : s.owner = .depth) : FrontEndOk s ↔
    s.fst = .idle ∧ s.tst = ⟨.triggered, .idle⟩ ∧ s.afe.conv = !s.pend.dc ∧
      (s.afe.conv = true → s.afe.en = true) ∧ s.pend.bc = false := by
  simp [FrontEndOk, h]

/-- A pending BC completion is the battery trigger's, and its conversion is over (invariant 6). -/
theorem FrontEndOk.of_bc_pending {s : State} (h : FrontEndOk s) (hp : s.pend.get .bc = true) :
    s.owner = .bat ∧ s.afe.conv = false := by
  cases ho : s.owner <;> simp_all [FrontEndOk, BySource.get]

/-- A pending DC completion is the depth trigger's, and its conversion is over (invariant 6). -/
theorem FrontEndOk.of_dc_pending {s : State} (h : FrontEndOk s) (hp : s.pend.get .dc = true) :
    s.owner = .depth ∧ s.afe.conv = false := by
  cases ho : s.owner <;> simp_all [FrontEndOk, BySource.get]

/-- Only the two completion latches say anything about the front-end. -/
theorem FrontEndOk.setPend {s : State} (h : FrontEndOk s) {src : Source} (hbc : src ≠ .bc) (hdc : src ≠ .dc) (v : Bool) :
    FrontEndOk { s with pend := s.pend.set src v } := by
  cases src
  case bc => exact absurd rfl hbc
  case dc => exact absurd rfl hdc
  all_goals exact h

/-- Each label takes a state of the front-end's holder to one of the next holder's. -/
theorem Effect.frontEndOk {i : Instr} {s t : State} (he : Effect i s t) (h : FrontEndOk s) : FrontEndOk t := by
  cases he with
  | pinChanged | pinNotified | pinHandler => exact h.setPend (src := .pc) (by decide) (by decide) _
  | fastTick | fastHandlerFull => exact h.setPend (src := .ft) (by decide) (by decide) _
  | secondTick | secondHandler => exact h.setPend (src := .st) (by decide) (by decide) _
  | triggerTick c _ => cases c <;> exact h.setPend (by decide) (by decide) _
  | doneBat _ _ hc ho =>
    obtain ⟨hf, ht, -, -, hd⟩ := (frontEndOk_bat ho).mp h
    refine (frontEndOk_bat ?_).mpr ⟨hf, ht, rfl, nofun, hd⟩
    exact ho
  | doneDepth _ _ hc ho =>
    obtain ⟨hf, ht, -, -, hb⟩ := (frontEndOk_depth ho).mp h
    refine (frontEndOk_depth ?_).mpr ⟨hf, ht, rfl, nofun, hb⟩
    exact ho
  | doneUnowned _ _ hc ho =>
    obtain ⟨-, -, hn, -⟩ := (frontEndOk_none ho).mp h
    exact absurd hc (by simp [hn])
  | doneXThenY _ _ _ _ _ ho =>
    obtain ⟨-, ht, -, -, hp⟩ := (frontEndOk_fast ho).mp h
    refine (frontEndOk_fast ?_).mpr ⟨nofun, ht, rfl, rfl, hp⟩
    exact ho
  | doneXThenEnd _ _ _ _ _ ho | doneY _ _ _ _ _ ho =>
    obtain ⟨-, ht, -, -, hp⟩ := (frontEndOk_fast ho).mp h
    exact (frontEndOk_none rfl).mpr ⟨rfl, ht, rfl, hp⟩
  | fastHandlerX _ _ _ _ ho | fastHandlerY _ _ _ _ _ ho =>
    obtain ⟨-, ht, -, hp⟩ := (frontEndOk_none ho).mp h
    exact (frontEndOk_fast rfl).mpr ⟨nofun, ht, rfl, rfl, hp⟩
  | batTrigger _ _ _ ho =>
    obtain ⟨hf, ht, -, hb, hd⟩ := (frontEndOk_none ho).mp h
    exact (frontEndOk_bat rfl).mpr ⟨hf, congrArg (·.set .bat .triggered) ht, congrArg (!·) hb.symm, fun _ => rfl, hd⟩
  | depthTrigger _ _ _ ho =>
    obtain ⟨hf, ht, -, hb, hd⟩ := (frontEndOk_none ho).mp h
    exact (frontEndOk_depth rfl).mpr ⟨hf, congrArg (·.set .depth .triggered) ht, congrArg (!·) hd.symm, fun _ => rfl, hb⟩
  | batCompletion _ _ _ hp =>
    obtain ⟨ho, hc⟩ := h.of_bc_pending hp
    obtain ⟨hf, ht, -, -, hd⟩ := (frontEndOk_bat ho).mp h
    exact (frontEndOk_none rfl).mpr ⟨hf, congrArg (·.set .bat .idle) ht, hc, rfl, hd⟩
  | depthCompletion _ _ _ hp =>
    obtain ⟨ho, hc⟩ := h.of_dc_pending hp
    obtain ⟨hf, ht, -, -, hb⟩ := (frontEndOk_depth ho).mp h
    exact (frontEndOk_none rfl).mpr ⟨hf, congrArg (·.set .depth .idle) ht, hc, hb, rfl⟩
  | _ => exact h

theorem TrigChannel.forall_iff {p : TrigChannel → Prop} : (∀ c, p c) ↔ p .depth ∧ p .bat :=
  ⟨fun h => ⟨h .depth, h .bat⟩, fun ⟨hd, hb⟩ c => by cases c <;> assumption⟩

theorem ByTrigger.eq_mk_iff {α : Type} {b : ByTrigger α} {d t : α} :
    b = ⟨d, t⟩ ↔ b.get .depth = d ∧ b.get .bat = t := by
  cases b
  simp [ByTrigger.get]

theorem TrigState.eq_idle_iff {x : TrigState} : x = .idle ↔ x ≠ .triggered := by
  cases x <;> decide

/-- `FrontEndOk` is invariants 3 to 7 of R46, read holder by holder. -/
theorem frontEndOk_iff (s : State) : FrontEndOk s ↔
    (s.owner = .fast ↔ s.fst ≠ .idle) ∧
    (∀ c, s.owner = trigOwner c ↔ s.tst.get c = .triggered) ∧
    (s.fst ≠ .idle → s.afe.conv = true) ∧
    (∀ c, s.pend.get (doneSource c) = true → s.owner = trigOwner c ∧ s.afe.conv = false) ∧
    (∀ c, s.owner = trigOwner c → s.afe.conv = !(s.pend.get (doneSource c))) ∧
    (s.afe.conv = true → s.owner ≠ .none ∧ s.afe.en = true) := by
  unfold FrontEndOk
  cases s.owner <;> simp [TrigChannel.forall_iff, trigOwner, doneSource, BySource.get, ByTrigger.eq_mk_iff,
    TrigState.eq_idle_iff]
  all_goals grind

/-- The invariants of R46, part by part. -/
theorem State.inv_iff (s : State) : s.Inv ↔
    s.cfg.Ok ∧ StorageOk s.cfg s.mem s.buf ∧ (∀ k, (s.cls.get k).Ok s.cfg) ∧ FrontEndOk s := by
  rw [frontEndOk_iff]
  constructor
  · intro h
    exact ⟨h.cfg, ⟨h.mem, h.buf⟩, fun k => ⟨h.cnt_lt k, fun hr => h.running hr k⟩,
      h.fast_owner, h.trig_owner, h.wait_conv, h.done_pending, h.trig_owes_one, h.conv_owned⟩
  · rintro ⟨hcfg, hs, hk, hfast, htrig, hwait, hdone, howes, hconv⟩
    exact
      { cfg := hcfg
        mem := hs.mem
        cnt_lt := fun k => (hk k).cnt_lt
        buf := hs.buf
        fast_owner := hfast
        trig_owner := htrig
        wait_conv := hwait
        done_pending := hdone
        trig_owes_one := howes
        conv_owned := hconv
        running := fun hr k => (hk k).running hr }

theorem Effect.cfg_eq {i : Instr} {s t : State} (h : Effect i s t) : t.cfg = s.cfg := by
  cases h <;> rfl

theorem Effect.inv {i : Instr} {s t : State} (he : Effect i s t) (h : s.Inv) : t.Inv := by
  obtain ⟨hcfg, hs, hk, hfe⟩ := (State.inv_iff s).mp h
  exact (State.inv_iff t).mpr ⟨he.cfg_eq ▸ hcfg, he.storageOk hcfg hs, he.countersOk hk, he.frontEndOk hfe⟩

theorem State.Inv.withTrace {s : State} (h : s.Inv) (q : List Word) : (s.withTrace q).Inv :=
  { h with }

theorem step_eq_next {s t : State} :
    step s = .next t ↔ ∃ w rest, s.trace = w :: rest ∧ takeLabel w (s.withTrace rest) = .next t := by
  cases hs : s.trace with
  | nil => simp [step, hs]
  | cons w rest => simp [step_of_trace hs]

/-- Settles O58: the label a step takes has an `Effect`, and that keeps each part of the invariants. -/
theorem everyStepKeepsTheInvariants : Obligations.EveryStepKeepsTheInvariants := by
  intro s t h hstep
  obtain ⟨w, rest, -, hw⟩ := step_eq_next.mp hstep
  obtain ⟨i, -, -, he⟩ := takeLabel_eq_next.mp hw
  exact he.inv (h.withTrace rest)

/-- Settles O57: at reset nothing is stored, both counts are 0 and nobody holds the front-end. -/
theorem resetMeetsTheInvariants : Obligations.ResetMeetsTheInvariants := by
  intro cfg hcfg
  refine ⟨(State.inv_iff _).mpr ⟨hcfg, ⟨⟨Memory.nil_wf, nofun⟩, fun ch => ?_⟩, fun k => ?_, ?_⟩, ?_⟩
  · cases ch <;> exact Buffer.empty_ok (hcfg.cap_pos _)
  · cases k <;> exact ClassifierState.zero_ok id _
  · exact (frontEndOk_none rfl).mpr ⟨rfl, rfl, rfl, rfl, rfl⟩
  · exact ⟨rfl, fun src => by cases src <;> rfl, rfl, rfl⟩

end Sys2Proof.Machine
end

section
/-! No append forms an index outside sample storage (R65). -/

namespace Sys2Proof.Machine

/-- Where an append has no entry to write: the full flag is clear at or above the capacity. -/
def OutOfStorage (s : State) (ch : Channel) : Prop :=
  (s.buf.get ch).full = false ∧ s.cfg.cap.get ch ≤ (s.buf.get ch).len.toNat

/-- Invariants 1 and 2 rule it out (R46). -/
theorem State.Inv.not_outOfStorage {s : State} (h : s.Inv) (ch : Channel) : ¬ OutOfStorage s ch :=
  fun ⟨hf, hl⟩ => Nat.not_lt.mpr hl ((h.buf ch).len_lt hf)

theorem raiseFault_ne_overrun (c : FaultCode) (w : Word) (s : State) (ch : Channel) :
    raiseFault c w s ≠ .fault (.storageOverrun ch) := by
  cases c <;> simp [raiseFault]

theorem finish_eq_overrun {w : Word} {s : State} {r : Except Abort State} {ch : Channel} :
    finish w s r = .fault (.storageOverrun ch) ↔ r = .error (.overrun ch) := by
  simp [finish_eq_fault, raiseFault_ne_overrun]

theorem runHandler_overrun {src : Source} {s : State} {ch : Channel} (h : runHandler src s = .error (.overrun ch)) :
    OutOfStorage s ch := by
  cases src <;> simp only [runHandler, reduceCtorEq, handlerFT_eq_error, handlerTrig_eq_error, and_false] at h
  all_goals
    obtain ⟨hch, hf, hl⟩ := handlerDone_eq_error h
    cases hch
    exact ⟨hf, hl⟩

theorem routeDone_overrun {s : State} {ch : Channel} (h : routeDone s = .error (.overrun ch)) : OutOfStorage s ch := by
  obtain ⟨d, hd, -, hf, hl⟩ := ftContinue_eq_error (routeDone_eq_error h).2
  cases hd
  exact ⟨hf, hl⟩

/-- The model's own fault comes only from an append that has no entry to write (assumption log 8). -/
theorem exec_overrun {i : Instr} {s : State} {ch : Channel} (h : exec i s = .fault (.storageOverrun ch)) :
    OutOfStorage s ch := by
  cases i with
  | dispatch src =>
    obtain ⟨-, -, -, hd⟩ := execDispatch_eq_fault.mp h
    have hout : OutOfStorage (unlatch src s) ch := runHandler_overrun (finish_eq_overrun.mp hd)
    exact hout
  | evAfeDone v =>
    obtain ⟨-, -, hd⟩ := execEvAfeDone_eq_fault.mp h
    have hout : OutOfStorage (latchResult v s) ch := routeDone_overrun (finish_eq_overrun.mp hd)
    exact hout
  | hcReadSample c idx =>
    obtain ⟨-, -, hr⟩ := ifHostEnabled_eq_fault.mp h
    split at hr
    · cases hr
    · exact absurd hr (raiseFault_ne_overrun _ _ _ _)
  | evPinLevel | evPinChange | evTimerTick | evFastTick | evSecondTick | evRtcSet | evTriggerTick =>
    cases (ifLive_eq_fault.mp h).2
  | hcReadLength | hcReadCapacity | hcReadStatus | hcReadCalendar | hcResetBuffer | hcClearFlag =>
    cases (ifHostEnabled_eq_fault.mp h).2.2

/-- A malformed word raises ILLEGAL_OP and no fault of an append (R87). -/
theorem takeLabel_overrun {w : Word} {s : State} {ch : Channel} (h : takeLabel w s = .fault (.storageOverrun ch)) :
    OutOfStorage s ch := by
  cases hd : decode w with
  | ok i => exact exec_overrun (takeLabel_of_decode hd s ▸ h)
  | error e =>
    simp only [takeLabel, hd, ifLive_eq_fault] at h
    exact absurd h.2 (raiseFault_ne_overrun _ _ _ _)

/-- Settles O12: the fault needs a buffer that invariants 1 and 2 exclude. -/
theorem noAppendLeavesSampleStorage : Obligations.NoAppendLeavesSampleStorage :=
  fun _ _ ch hinv h => hinv.not_outOfStorage ch (takeLabel_overrun h)

end Sys2Proof.Machine
end

section
/-! Who writes which part of the state (R48): the fault registers, `midnight`, sample storage and the event latches. -/

namespace Sys2Proof.Machine

/-! ### The fault registers and `midnight` -/

theorem Effect.fault_eq {i : Instr} {s t : State} (h : Effect i s t) : t.fault = s.fault := by
  cases h <;> rfl

theorem Effect.faultLabel_eq {i : Instr} {s t : State} (h : Effect i s t) : t.faultLabel = s.faultLabel := by
  cases h <;> rfl

/-- Settles O13: a label runs only where `fault` is 0, and no `Effect` writes either register. -/
theorem nextStatesLeaveTheFaultRegistersAlone : Obligations.NextStatesLeaveTheFaultRegistersAlone := by
  intro i s t h
  obtain ⟨hf, he⟩ := exec_next h
  exact ⟨hf, he.fault_eq.trans hf, he.faultLabel_eq⟩

/-- The two writers of `midnight`: the ST handler and the host's clear (R170, R237). -/
theorem Effect.midnight_cases {i : Instr} {s t : State} (h : Effect i s t) :
    t.midnight = s.midnight ∨
    (i = .dispatch .st ∧ t.midnight = (dayChanged s.cal.cur s.rtc || s.midnight)) ∨
    (i = .hcClearFlag .midnight ∧ t.midnight = false) := by
  cases h with
  | secondHandler => exact .inr (.inl ⟨rfl, rfl⟩)
  | midnightCleared => exact .inr (.inr ⟨rfl, rfl⟩)
  | _ => exact .inl rfl

/-- Settles O27: the ST handler only sets the flag, on a change of DAY (R171, R172); the host's command only clears it. -/
theorem midnightIsSetByRolloverAndClearedByTheHost : Obligations.MidnightIsSetByRolloverAndClearedByTheHost := by
  intro i s t h
  rcases (exec_next h).2.midnight_cases with ht | ⟨hi, ht⟩ | ⟨hi, ht⟩
  · rw [ht]
    exact ⟨fun hs hm => by simp [hs] at hm, fun hs hm => by simp [hs] at hm⟩
  · refine ⟨fun hs hm => ⟨hi, ?_⟩, fun hs hm => ?_⟩
    · rw [ht, hs, Bool.or_false] at hm
      exact (dayChanged_iff _ _).mp hm
    · simp [ht, hs] at hm
  · exact ⟨fun _ hm => by simp [ht] at hm, fun _ _ => hi⟩

/-! ### Sample storage -/

/-- The label that appends to a channel: its completion handler, or the fast sampler's completion (R117). -/
def Appends (i : Instr) (s : State) (ch : Channel) : Prop :=
  (ch = .bat ∧ i = .dispatch .bc) ∨ (ch = .depth ∧ i = .dispatch .dc) ∨
    ((ch = .x ∨ ch = .y) ∧ s.owner = .fast ∧ ∃ v, i = .evAfeDone v)

/-- A label leaves sample storage alone or appends to the channel that it owns. -/
theorem Effect.mem_cases {i : Instr} {s t : State} (h : Effect i s t) :
    t.mem = s.mem ∨ ∃ ch v, Appends i s ch ∧ Appended ch v s t.mem t.buf := by
  cases h with
  | doneXThenY v _ _ _ _ ho _ ha | doneXThenEnd v _ _ _ _ ho _ ha =>
    exact .inr ⟨.x, v, .inr (.inr ⟨.inl rfl, ho, v, rfl⟩), ha⟩
  | doneY v _ _ _ _ ho _ ha => exact .inr ⟨.y, v, .inr (.inr ⟨.inr rfl, ho, v, rfl⟩), ha⟩
  | batCompletion _ _ _ _ _ ha => exact .inr ⟨.bat, _, .inl ⟨rfl, rfl⟩, ha⟩
  | depthCompletion _ _ _ _ _ ha => exact .inr ⟨.depth, _, .inr (.inl ⟨rfl, rfl⟩), ha⟩
  | _ => exact .inl rfl

/-- An append changes no entry but the one at index `len`, and that only with room (R110). -/
theorem Appended.eq_addr_of_read_ne {ch : Channel} {v : Sample} {s : State} {m : Memory} {b : ByChannel Buffer} {a : Nat}
    (ha : Appended ch v s m b) (hne : m.read a ≠ s.mem.read a) :
    a = sampleAddr ch (s.buf.get ch).len ∧ (s.buf.get ch).full = false ∧
      (s.buf.get ch).len.toNat < s.cfg.cap.get ch := by
  rcases ha with ⟨-, rfl, -⟩ | ⟨hf, hl, rfl, -⟩
  · exact absurd rfl hne
  · exact ⟨by_contra fun h => hne (Memory.read_write_ne _ _ h), hf, hl⟩

/-- Settles O41: a changed entry is the one that the owning handler's append writes. -/
theorem samplesAreWrittenOnlyByTheOwningHandler : Obligations.SamplesAreWrittenOnlyByTheOwningHandler := by
  intro i s t a h hne
  rcases (exec_next h).2.mem_cases with hm | ⟨ch, v, howns, happ⟩
  · exact absurd (congrArg (·.read a) hm) hne
  · obtain ⟨haddr, hf, hl⟩ := happ.eq_addr_of_read_ne hne
    exact ⟨ch, haddr, hf, hl, howns⟩

/-! ### The event latches -/

/-- The label that raises a source's latch (R261, R263). -/
def Raises (i : Instr) (s : State) : Source → Prop
  | .pc => i = .evPinChange ∨ ∃ p l, i = .evPinLevel p l ∧ s.pin.get p ≠ l
  | .ft => i = .evFastTick
  | .st => i = .evSecondTick
  | .bt => i = .evTriggerTick .bat
  | .dt => i = .evTriggerTick .depth
  | .bc => ∃ v, i = .evAfeDone v ∧ s.owner = .bat
  | .dc => ∃ v, i = .evAfeDone v ∧ s.owner = .depth

/-- A label leaves the latches alone, raises the one that is its own, or clears the one that it dispatches. -/
theorem Effect.pend_cases {i : Instr} {s t : State} (h : Effect i s t) :
    t.pend = s.pend ∨ (∃ src, Raises i s src ∧ t.pend = s.pend.set src true) ∨
    (∃ src, i = .dispatch src ∧ t.pend = s.pend.set src false) := by
  cases h with
  | pinChanged p l _ hp => exact .inr (.inl ⟨.pc, .inr ⟨p, l, rfl, hp⟩, rfl⟩)
  | pinNotified => exact .inr (.inl ⟨.pc, .inl rfl, rfl⟩)
  | fastTick => exact .inr (.inl ⟨.ft, rfl, rfl⟩)
  | secondTick => exact .inr (.inl ⟨.st, rfl, rfl⟩)
  | triggerTick c _ => exact .inr (.inl ⟨trigSource c, by cases c <;> rfl, rfl⟩)
  | doneBat v _ _ ho => exact .inr (.inl ⟨.bc, ⟨v, rfl, ho⟩, rfl⟩)
  | doneDepth v _ _ ho => exact .inr (.inl ⟨.dc, ⟨v, rfl, ho⟩, rfl⟩)
  | pinHandler | secondHandler | fastHandlerX | fastHandlerY | fastHandlerFull | batTrigger | depthTrigger
  | batCompletion | depthCompletion => exact .inr (.inr ⟨_, rfl, rfl⟩)
  | _ => exact .inl rfl

theorem Effect.dispatch_of_pend_cleared {i : Instr} {s t : State} {src : Source} (h : Effect i s t)
    (hs : s.pend.get src = true) (ht : t.pend.get src = false) : i = .dispatch src := by
  rcases h.pend_cases with hp | ⟨q, -, hp⟩ | ⟨q, hi, hp⟩ <;> rw [hp] at ht
  · simp [hs] at ht
  · simp [BySource.get_set, hs] at ht
  · by_cases hq : src = q
    · rw [hi, hq]
    · simp [BySource.get_set_ne _ _ hq, hs] at ht

theorem Effect.raises_of_pend_raised {i : Instr} {s t : State} {src : Source} (h : Effect i s t)
    (hs : s.pend.get src = false) (ht : t.pend.get src = true) : Raises i s src := by
  rcases h.pend_cases with hp | ⟨q, hr, hp⟩ | ⟨q, -, hp⟩ <;> rw [hp] at ht
  · simp [hs] at ht
  · by_cases hq : src = q
    · rwa [hq]
    · simp [BySource.get_set_ne _ _ hq, hs] at ht
  · simp [BySource.get_set, hs] at ht

/-- Settles O52: a latch differs from before only where its own label set it or its DISPATCH cleared it. -/
theorem latchesChangeOnlyByTheirWriters : Obligations.LatchesChangeOnlyByTheirWriters := by
  intro i s t src h
  obtain ⟨-, he⟩ := exec_next h
  refine ⟨he.dispatch_of_pend_cleared, fun hs ht => ?_⟩
  have hr := he.raises_of_pend_raised hs ht
  cases src <;> exact hr

/-! ### The environment -/

theorem countTick_eq (wT : Nat) (c : ClassifierState) : countTick wT c = { c with cnt := (countTick wT c).cnt } := by
  unfold countTick
  split <;> rfl

/-- What a label of the environment's other than EV_AFE_DONE can change outside the latches (R48). -/
theorem Effect.env_frame {i : Instr} {s t : State} (h : Effect i s t) (hc : i.labelClass = .env)
    (hn : ∀ v, i ≠ .evAfeDone v) :
    t = { s with pin := t.pin, rtc := t.rtc, cls := t.cls, pend := t.pend } ∧
    ∀ k, t.cls.get k = { s.cls.get k with cnt := (t.cls.get k).cnt } := by
  cases h with
  | counted j _ =>
    refine ⟨rfl, fun k => ?_⟩
    by_cases hk : k = j
    · subst hk
      simpa using countTick_eq s.cfg.wT (s.cls.get k)
    · simp [ByClassifier.get_set_ne _ _ hk]
  | pinSame | pinChanged | pinNotified | fastTick | secondTick | rtcSet | triggerTick => exact ⟨rfl, fun _ => rfl⟩
  | doneBat v | doneDepth v | doneUnowned v | doneXThenY v | doneXThenEnd v | doneY v => exact absurd rfl (hn v)
  | _ => cases hc

/-- A latch that only EV_AFE_DONE raises keeps its value at the environment's other labels (R286). -/
theorem Effect.env_pend_eq {i : Instr} {s t : State} {src : Source} (h : Effect i s t) (hc : i.labelClass = .env)
    (hr : ¬ Raises i s src) : t.pend.get src = s.pend.get src := by
  cases hs : s.pend.get src <;> cases ht : t.pend.get src
  case false.true => exact absurd (h.raises_of_pend_raised hs ht) hr
  case true.false => cases h.dispatch_of_pend_cleared hs ht ▸ hc
  all_goals rfl

/-- Settles O51: the frame by cases of the label, the latches by who raises and who clears them. -/
theorem theEnvironmentChangesOnlyPortsCountsAndLatches : Obligations.TheEnvironmentChangesOnlyPortsCountsAndLatches := by
  intro i s t hc hn h
  obtain ⟨-, he⟩ := exec_next h
  obtain ⟨hframe, hcls⟩ := he.env_frame hc hn
  refine ⟨hframe, hcls, fun src hs => ?_, he.env_pend_eq hc ?_, he.env_pend_eq hc ?_⟩
  · cases ht : t.pend.get src
    · cases he.dispatch_of_pend_cleared hs ht ▸ hc
    · rfl
  · exact fun ⟨v, hi, _⟩ => hn v hi
  · exact fun ⟨v, hi, _⟩ => hn v hi

end Sys2Proof.Machine
end

section
/-! The reset table, the STATUS view, and sample storage in canonical form. -/

namespace Sys2Proof.Machine

/-- Settles O55: `State.resetWith` is the table, member by member. -/
theorem resetHoldsTheResetTable : Obligations.ResetHoldsTheResetTable := by
  intro cfg
  refine ⟨rfl, fun ch i => ⟨rfl, ?_, ?_⟩, fun k => ⟨?_, ?_, ?_⟩, fun p => ⟨?_, rfl⟩, rfl, rfl, rfl, rfl, rfl,
    fun c => ?_, rfl, rfl, fun src => ?_, rfl, rfl, rfl⟩
  · cases ch <;> rfl
  · cases ch <;> rfl
  · cases k <;> rfl
  · cases k <;> rfl
  · cases k <;> rfl
  · cases p <;> rfl
  · cases c <;> rfl
  · cases src <;> rfl

/-- Settles O45: the bits are `statusWord_bits`, and a trigger's bit says TRIGGERED. -/
theorem readStatusAssemblesTheStatusView : Obligations.ReadStatusAssemblesTheStatusView := by
  intro s hf hi
  obtain ⟨h0, h1, h2, h3, h4, h5, h6, h7, h8, h9, h10, h11, h12, h13⟩ := statusWord_bits s
  have hbat := h11 ▸ s.tst.bat.bit_iff
  have hdepth := h12 ▸ s.tst.depth.bit_iff
  exact ⟨by decide, hostRead (statusWord s) s, ifHostEnabled_of_enabled hf hi _, rfl,
    h0, h1, h2, h3, h4, h5, h6, h7, h8, h9, h10, hbat, hdepth, h13⟩

theorem Memory.wf_cons {b : Nat} {u : Sample} {m : Memory} :
    Memory.wf ((b, u) :: m) ↔ (∀ c ∈ m, b < c.1) ∧ u ≠ Memory.unlisted ∧ m.wf := by
  simp only [Memory.wf, List.pairwise_cons, List.forall_mem_cons]
  tauto

/-- Canonical storage lists exactly the entries that do not read as the reset contents. -/
theorem Memory.mem_iff_read {m : Memory} (hm : m.wf) (a : Nat) (v : Sample) :
    (a, v) ∈ m ↔ m.read a = v ∧ v ≠ Memory.unlisted := by
  induction m with
  | nil => simp [eq_comm]
  | cons c m ih =>
    obtain ⟨b, u⟩ := c
    obtain ⟨hlt, hu, hm⟩ := Memory.wf_cons.mp hm
    rw [Memory.read_cons, List.mem_cons, ih hm]
    by_cases hab : a = b
    · subst hab
      have hread : Memory.read m a = Memory.unlisted := Memory.read_of_not_listed m a fun c hc => (hlt c hc).ne'
      simp only [hread, reduceIte, Prod.mk.injEq, true_and]
      grind
    · simp [hab]

/-- Settles O42: what two storages read says what they list, and rising addresses fix the order. -/
theorem canonicalStoragesAreEqualWhenTheyReadEqual : Obligations.CanonicalStoragesAreEqualWhenTheyReadEqual := by
  intro m n hm hn hread
  have : Std.Asymm fun c d : Nat × Sample => c.1 < d.1 := ⟨fun _ _ h => h.asymm⟩
  refine hm.1.eq_of_mem_iff hn.1 fun (a, v) => ?_
  rw [Memory.mem_iff_read hm, Memory.mem_iff_read hn, hread]

end Sys2Proof.Machine
end

section
/-! Host commands: what a second one adds. -/

namespace Sys2Proof.Machine

/-- A host command has the effect it had again, on the state it left: a read does not read `hrd`, which is all that it
writes (R42), and a clear or a reset writes constants (R236, R237). -/
theorem Effect.host_again {i : Instr} {s t : State} (h : Effect i s t) (hc : i.labelClass = .host) : Effect i t t := by
  cases h with
  | sampleRead ch j _ hi hl => exact .sampleRead ch j (hostRead _ s) hi hl
  | lengthRead ch _ hi => exact .lengthRead ch (hostRead _ s) hi
  | capacityRead ch _ hi => exact .capacityRead ch (hostRead _ s) hi
  | statusRead _ hi => exact .statusRead (hostRead _ s) hi
  | calendarRead snap fld _ hi => exact .calendarRead snap fld (hostRead _ s) hi
  | bufferReset ch _ hi => simpa using Effect.bufferReset ch { s with buf := s.buf.set ch ⟨0, false⟩ } hi
  | midnightCleared _ hi => exact .midnightCleared (clearFlag .midnight s) hi
  | waterCleared _ hi => exact .waterCleared (clearFlag .water s) hi
  | netCleared _ hi => exact .netCleared (clearFlag .net s) hi
  | _ => cases hc

/-- Settles O50: the first command leaves `fault` at 0, and its effect repeats (`Effect.host_again`). -/
theorem hostCommandsAreIdempotent : Obligations.HostCommandsAreIdempotent := by
  intro i s t hc h
  obtain ⟨hf, he⟩ := exec_next h
  exact exec_of_effect (he.fault_eq.trans hf) (he.host_again hc)

end Sys2Proof.Machine
end

section
/-! The decoder against the encoder and against rule R86: which labels decode, and to what (R80, R83 to R86). -/

namespace Sys2Proof

/-! ### What a label decodes to -/

/-- A check on DATA that passes gives the instruction it guards. -/
theorem guarded_eq_ok {c : Prop} [Decidable c] {i j : Instr} {e : Reject}
    (h : (if c then .ok i else .error e) = Except.ok j) : c ∧ j = i := by
  split at h
  · exact ⟨‹c›, (Except.ok.inj h).symm⟩
  · cases h

theorem noData_eq_ok {data : BitVec 16} {i j : Instr} (h : noData data i = .ok j) : data = 0#16 ∧ j = i :=
  guarded_eq_ok h

theorem noSel_eq_ok {sel : Byte} {r : Except Reject Instr} {i : Instr} (h : noSel sel r = .ok i) :
    sel = 0#8 ∧ r = .ok i := by
  unfold noSel at h
  split at h
  · exact ⟨‹_›, h⟩
  · cases h

/-- A selector that is accepted is the code of the operand it names, given that for its operand set (R84). -/
theorem withSel_eq_ok {α : Type} {code : α → Byte} {ofCode : Byte → Option α} {sel : Byte}
    {f : α → Except Reject Instr} {i : Instr} (hcode : ∀ b a, ofCode b = some a → code a = b)
    (h : withSel (ofCode sel) f = .ok i) : ∃ a, code a = sel ∧ f a = .ok i := by
  unfold withSel at h
  split at h
  · exact ⟨_, hcode _ _ ‹_›, h⟩
  · cases h

/-- The same for a label that carries a selector alone. -/
theorem withSel_noData_eq_ok {α : Type} {code : α → Byte} {ofCode : Byte → Option α} {sel : Byte}
    {data : BitVec 16} {mk : α → Instr} {i : Instr} (hcode : ∀ b a, ofCode b = some a → code a = b)
    (h : withSel (ofCode sel) (fun a => noData data (mk a)) = .ok i) :
    ∃ a, code a = sel ∧ data = 0#16 ∧ i = mk a := by
  obtain ⟨a, ha, hdata⟩ := withSel_eq_ok hcode h
  exact ⟨a, ha, noData_eq_ok hdata⟩

/-- A DATA whose upper fifteen bits are 0 is its bit 0 (EV_PIN_LEVEL, R85). -/
theorem eq_level_of_upper_zero {data : BitVec 16} (h : data.extractLsb' 1 15 = 0#15) :
    (bif data.getLsbD 0 then 1 else 0) = data := by
  have hupper : data.toNat / 2 % 2 ^ 15 = 0 := by
    simpa [BitVec.extractLsb'_toNat, Nat.shiftRight_eq_div_pow] using congrArg BitVec.toNat h
  have h01 : data.toNat = 0 ∨ data.toNat = 1 := by omega
  obtain h0 | h1 := h01
  · rw [BitVec.eq_of_toNat_eq (y := 0#16) h0]
    rfl
  · rw [BitVec.eq_of_toNat_eq (y := 1#16) h1]
    rfl

/-- Operands decode only to the well-formed instruction that has them as its fields. -/
theorem fields_of_decodeOperands {op : Opc} {sel : Byte} {data : BitVec 16} {i : Instr}
    (h : decodeOperands op sel data = .ok i) : i.wf = true ∧ i.opc = op ∧ i.sel = sel ∧ i.data = data := by
  cases op with
  | evPinLevel =>
    obtain ⟨p, rfl, hp⟩ := withSel_eq_ok pinCode_of_decoded h
    obtain ⟨hdata, rfl⟩ := guarded_eq_ok hp
    exact ⟨rfl, rfl, rfl, eq_level_of_upper_zero hdata⟩
  | evRtcSet =>
    obtain ⟨fld, rfl, hfld⟩ := withSel_eq_ok calFieldCode_of_decoded h
    obtain ⟨hfits, rfl⟩ := guarded_eq_ok hfld
    exact ⟨hfits, rfl, rfl, rfl⟩
  | evPinChange | evFastTick | evSecondTick | hcReadStatus =>
    obtain ⟨rfl, hdata⟩ := noSel_eq_ok h
    obtain ⟨rfl, rfl⟩ := noData_eq_ok hdata
    exact ⟨rfl, rfl, rfl, rfl⟩
  | evAfeDone =>
    obtain ⟨rfl, ⟨⟩⟩ := noSel_eq_ok h
    exact ⟨rfl, rfl, rfl, rfl⟩
  | hcReadSample =>
    obtain ⟨ch, rfl, ⟨⟩⟩ := withSel_eq_ok channelCode_of_decoded h
    exact ⟨rfl, rfl, rfl, rfl⟩
  | evTimerTick =>
    obtain ⟨k, rfl, rfl, rfl⟩ := withSel_noData_eq_ok classifierCode_of_decoded h
    exact ⟨rfl, rfl, rfl, rfl⟩
  | evTriggerTick =>
    obtain ⟨c, rfl, rfl, rfl⟩ := withSel_noData_eq_ok trigChannelCode_of_decoded h
    exact ⟨rfl, rfl, rfl, rfl⟩
  | dispatch =>
    obtain ⟨src, rfl, rfl, rfl⟩ := withSel_noData_eq_ok sourceCode_of_decoded h
    exact ⟨rfl, rfl, rfl, rfl⟩
  | hcReadLength | hcReadCapacity | hcResetBuffer =>
    obtain ⟨ch, rfl, rfl, rfl⟩ := withSel_noData_eq_ok channelCode_of_decoded h
    exact ⟨rfl, rfl, rfl, rfl⟩
  | hcReadCalendar =>
    obtain ⟨p, rfl, rfl, rfl⟩ := withSel_noData_eq_ok calSelCode_of_decoded h
    exact ⟨rfl, rfl, rfl, rfl⟩
  | hcClearFlag =>
    obtain ⟨f, rfl, rfl, rfl⟩ := withSel_noData_eq_ok flagCode_of_decoded h
    exact ⟨rfl, rfl, rfl, rfl⟩

theorem decode_mkLabel (op : Opc) (sel : Byte) (data : BitVec 16) :
    decode (mkLabel op.code sel data) = decodeOperands op sel data := by
  simp [decode]

/-- A label with an operation code of the map is that code with the label's other two fields (R80, R83). -/
theorem mkLabel_of_opc {w : Word} {op : Opc} (h : opcOfCode (opcOf w) = some op) :
    mkLabel op.code (selOf w) (dataOf w) = w := by
  rw [opcCode_of_decoded _ _ h, mkLabel_fields]

/-- The fields of a well-formed instruction decode to it. Two rows check DATA: EV_PIN_LEVEL's bit, EV_RTC_SET's width. -/
theorem decodeOperands_fields {i : Instr} (h : i.wf = true) : decodeOperands i.opc i.sel i.data = .ok i := by
  cases i with
  | evPinLevel p level => cases level <;> simp [decodeOperands, Instr.opc, Instr.sel, Instr.data, withSel]
  | evRtcSet fld v =>
    have hv : rtcValueFits fld v = true := h
    simp [decodeOperands, Instr.opc, Instr.sel, Instr.data, withSel, hv]
  | evPinChange | evFastTick | evSecondTick | hcReadStatus | evAfeDone => rfl
  | _ => simp [decodeOperands, Instr.opc, Instr.sel, Instr.data, withSel, noData]

/-- Settles O1: the label's fields are the instruction's (`decode_mkLabel`), and they decode to it. -/
theorem decodeOfEncodeGivesTheInstructionBack : Obligations.DecodeOfEncodeGivesTheInstructionBack := fun i h =>
  (decode_mkLabel i.opc i.sel i.data).trans (decodeOperands_fields h)

/-- Settles O2: the operation code is that of the map, and the operands determine the other two fields. -/
theorem encodeOfDecodeGivesTheWordBack : Obligations.EncodeOfDecodeGivesTheWordBack := by
  intro w i h
  cases hop : opcOfCode (opcOf w) with
  | none => simp [decode, hop] at h
  | some op =>
    rw [← mkLabel_of_opc hop, decode_mkLabel] at h
    obtain ⟨hwf, rfl, hsel, hdata⟩ := fields_of_decodeOperands h
    refine ⟨hwf, ?_⟩
    rw [encode, hsel, hdata, mkLabel_of_opc hop]

/-! ### Which labels decode -/

@[simp] theorem isOk_ok (i : Instr) : (Except.ok i : Except Reject Instr).isOk = true := rfl

@[simp] theorem isOk_error (e : Reject) : (Except.error e : Except Reject Instr).isOk = false := rfl

theorem guarded_isOk {c : Prop} [Decidable c] (i : Instr) (e : Reject) :
    (if c then Except.ok i else .error e).isOk = decide c := by
  split <;> simp [*]

theorem noData_isOk (data : BitVec 16) (i : Instr) : (noData data i).isOk = decide (data.toNat = 0) := by
  rw [noData, guarded_isOk, decide_eq_decide]
  exact BitVec.toNat_eq

theorem noSel_isOk (sel : Byte) (r : Except Reject Instr) : (noSel sel r).isOk = (decide (sel.toNat = 0) && r.isOk) := by
  by_cases hsel : sel = 0#8
  · simp [noSel, hsel]
  · have hnat : sel.toNat ≠ 0 := fun h => hsel (BitVec.eq_of_toNat_eq h)
    simp [noSel, hsel, hnat]

/-- A label with a selector, where what is left to check is the same for every operand. -/
theorem withSel_isOk {α : Type} {o : Option α} {f : α → Except Reject Instr} {c d : Bool} (ho : o.isSome = c)
    (hf : ∀ a, (f a).isOk = d) : (withSel o f).isOk = (c && d) := by
  subst ho
  cases o with
  | none => rfl
  | some a => exact hf a

theorem withSel_noData_isOk {α : Type} {o : Option α} {mk : α → Instr} {c : Bool} (data : BitVec 16) (ho : o.isSome = c) :
    (withSel o fun a => noData data (mk a)).isOk = (c && decide (data.toNat = 0)) :=
  withSel_isOk ho fun _ => noData_isOk _ _

/-- The width check of EV_RTC_SET's value, as R86 writes it: over the field's code and the value's high byte. -/
theorem rtcValueFits_eq (fld : CalField) (v : BitVec 16) :
    rtcValueFits fld v = (decide (fld.code.toNat = 0) || decide (v.extractLsb' 8 8 = 0#8)) := by
  have hcode : fld = .year ↔ fld.code.toNat = 0 := by cases fld <;> decide
  have hbyte : v.toNat < 256 ↔ v.extractLsb' 8 8 = 0#8 := by
    rw [BitVec.toNat_eq]
    simp [BitVec.extractLsb'_toNat, Nat.shiftRight_eq_div_pow]
    omega
  rw [rtcValueFits, decide_eq_decide.mpr hcode, decide_eq_decide.mpr hbyte]

/-- The row of EV_RTC_SET, whose DATA check depends on the field that SEL names (R86). -/
theorem decodeRtcSet_isOk (sel : Byte) (data : BitVec 16) :
    (decodeOperands .evRtcSet sel data).isOk =
      (decide (sel.toNat ≤ 5) && (decide (sel.toNat = 0) || decide (data.extractLsb' 8 8 = 0#8))) := by
  rw [← calFieldOfCode_isSome sel]
  cases hfld : calFieldOfCode sel with
  | none => simp [decodeOperands, withSel, hfld]
  | some fld =>
    simp [decodeOperands, withSel, hfld, guarded_isOk, rtcValueFits_eq, calFieldCode_of_decoded sel fld hfld]

/-- The operands of a label decode exactly where the row of R86 for its operation code holds. -/
theorem decodeOperands_isOk (op : Opc) (sel : Byte) (data : BitVec 16) :
    (decodeOperands op sel data).isOk = wfWord (mkLabel op.code sel data) := by
  simp only [wfWord, opcOf_mkLabel, selOf_mkLabel, dataOf_mkLabel]
  cases op with
  | evPinLevel => exact withSel_isOk (pinOfCode_isSome sel) fun _ => guarded_isOk _ _
  | evRtcSet => exact decodeRtcSet_isOk sel data
  | evPinChange | evFastTick | evSecondTick | hcReadStatus =>
    exact (noSel_isOk sel _).trans (congrArg _ (noData_isOk data _))
  | evAfeDone => exact (noSel_isOk sel _).trans (Bool.and_true _)
  | hcReadSample => exact (withSel_isOk (d := true) (channelOfCode_isSome sel) fun _ => rfl).trans (Bool.and_true _)
  | evTimerTick => exact withSel_noData_isOk data (classifierOfCode_isSome sel)
  | evTriggerTick => exact withSel_noData_isOk data (trigChannelOfCode_isSome sel)
  | dispatch => exact withSel_noData_isOk data (sourceOfCode_isSome sel)
  | hcReadLength | hcReadCapacity | hcResetBuffer => exact withSel_noData_isOk data (channelOfCode_isSome sel)
  | hcReadCalendar => exact withSel_noData_isOk data (calSelOfCode_isSome sel)
  | hcClearFlag => exact withSel_noData_isOk data (flagOfCode_isSome sel)

/-- R86 has a row for the operation codes of the map only (R88). -/
theorem wfWord_of_reserved {w : Word} (h : opcOfCode (opcOf w) = none) : wfWord w = false := by
  unfold wfWord
  dsimp only
  split
  case h_17 => rfl
  all_goals simp [opcOfCode, *] at h

/-- The decoder accepts a word exactly where `wf(w)` of R86 holds. -/
theorem decode_isOk (w : Word) : (decode w).isOk = wfWord w := by
  cases hop : opcOfCode (opcOf w) with
  | none => simp [decode, hop, wfWord_of_reserved hop]
  | some op => rw [← mkLabel_of_opc hop, decode_mkLabel, decodeOperands_isOk]

/-- Settles O3, by `decode_isOk`: rule R86 row by row. -/
theorem decoderAcceptsExactlyTheWellFormedWords : Obligations.DecoderAcceptsExactlyTheWellFormedWords := by
  intro w
  rw [← decode_isOk]
  cases decode w <;> simp

/-- The label of a well-formed instruction meets rule R86. -/
theorem wfWord_encode {i : Instr} (h : i.wf = true) : wfWord (encode i) = true := by
  rw [← decode_isOk, decodeOfEncodeGivesTheInstructionBack i h, isOk_ok]

/-- Settles O4: the field formula is `mkLabel_toNat`, and each word of R93 decodes by computation. -/
theorem exampleWordsDecodeAsListed : Obligations.ExampleWordsDecodeAsListed :=
  ⟨fun _ => mkLabel_toNat _ _ _, by and_intros <;> rfl⟩

/-- The opcode ranges of the three classes (R81, R83). -/
theorem Opc.labelClass_range (op : Opc) :
    (op.labelClass = .env ↔ 1 ≤ op.code.toNat ∧ op.code.toNat ≤ 8) ∧
    (op.labelClass = .int ↔ op.code.toNat = 0x20) ∧
    (op.labelClass = .host ↔ 0x40 ≤ op.code.toNat ∧ op.code.toNat ≤ 0x46) := by
  cases op <;> decide

/-- Settles O5: a label's OPC field is the code of its operation (`Opc.labelClass_range`). -/
theorem labelClassFollowsTheOpcodeRange : Obligations.LabelClassFollowsTheOpcodeRange := by
  intro i
  rw [opcOf_encode]
  exact i.opc.labelClass_range

namespace Machine

/-- A malformed word raises ILLEGAL_OP, unless the block has already faulted (R87, R280). -/
theorem takeLabel_of_malformed {w : Word} (h : wfWord w = false) (s : State) :
    takeLabel w s = ifLive s (raiseFault .illegalOp w s) := by
  rw [← decode_isOk] at h
  unfold takeLabel
  cases hd : decode w with
  | ok i => simp [hd] at h
  | error e => rfl

/-- Settles O9: the decoder refuses the word before any other ground is looked at, and `fault = 0` leaves the fault. -/
theorem malformedLabelFaultsInEveryLiveState : Obligations.MalformedLabelFaultsInEveryLiveState := fun s _ hf hw =>
  (takeLabel_of_malformed hw s).trans (ifLive_of_live hf _)

end Machine
end Sys2Proof
end

section
/-! The assembler: every label it gives is that of a well-formed instruction (R91, R92). The readers of operands keep
this whatever they read; only a calendar value has a width to check. -/

namespace Sys2Proof.Machine

/-- Whatever operands the reader of a mnemonic accepts, the instructions it gives are well-formed. -/
def ReadsWf (r : List (List Char) → Option (List Instr)) : Prop :=
  ∀ ops is, r ops = some is → is.all Instr.wf = true

theorem takes0_readsWf {i : Instr} (h : i.wf = true) : ReadsWf (takes0 i) := by
  intro ops is ho
  unfold takes0 at ho
  split at ho
  · cases ho
    simp [h]
  · cases ho

theorem takes1_readsWf {α : Type} {p : List Char → Option α} {f : α → List Instr}
    (h : ∀ a, (f a).all Instr.wf = true) : ReadsWf (takes1 p f) := by
  intro ops is ho
  unfold takes1 at ho
  split at ho
  · obtain ⟨a, -, rfl⟩ := Option.map_eq_some_iff.mp ho
    exact h a
  · cases ho

theorem takes2_readsWf {α β : Type} {p : List Char → Option α} {q : List Char → Option β} {f : α → β → List Instr}
    (h : ∀ a b, (f a b).all Instr.wf = true) : ReadsWf (takes2 p q f) := by
  intro ops is ho
  unfold takes2 at ho
  split at ho
  · obtain ⟨a, -, ha⟩ := Option.bind_eq_some_iff.mp ho
    obtain ⟨b, -, rfl⟩ := Option.map_eq_some_iff.mp ha
    exact h a b
  · cases ho

theorem takesRtcSet_readsWf : ReadsWf takesRtcSet := by
  intro ops is ho
  unfold takesRtcSet at ho
  split at ho
  · obtain ⟨fld, -, hfld⟩ := Option.bind_eq_some_iff.mp ho
    obtain ⟨v, -, hv⟩ := Option.bind_eq_some_iff.mp hfld
    split at hv
    · cases hv
      simpa [Instr.wf]
    · cases hv
  · cases ho

theorem rtcValueFits_year (v : BitVec 16) : rtcValueFits .year v = true := rfl

/-- An 8-bit calendar value zero-extended to DATA fits every field (R85). -/
theorem rtcValueFits_setWidth (fld : CalField) (v : Byte) : rtcValueFits fld (v.setWidth 16) = true := by
  have := v.isLt
  simp [rtcValueFits]
  omega

theorem Pseudo.expand_wf (p : Pseudo) : p.expand.all Instr.wf = true := by
  cases p with
  | timerTicks k n => simp [Pseudo.expand, Instr.wf]
  | rtcLoad t => simp [Pseudo.expand, Instr.wf, rtcValueFits_setWidth, rtcValueFits_year]
  | hostDrain ch n => simp [Pseudo.expand, Instr.wf]
  | trigRun c v => cases c <;> rfl
  | secRun | pinSet | ftRunNone | ftRunOne | ftRunBoth => rfl

theorem takesRtcLoad_readsWf : ReadsWf takesRtcLoad := by
  intro ops is ho
  unfold takesRtcLoad at ho
  split at ho
  · simp only [Option.bind_eq_some_iff, Option.map_eq_some_iff] at ho
    obtain ⟨y, -, mo, -, d, -, h, -, mi, -, s, -, rfl⟩ := ho
    exact Pseudo.expand_wf _
  · cases ho

theorem takesFtRun_readsWf : ReadsWf takesFtRun := by
  intro ops is ho
  unfold takesFtRun at ho
  split at ho
  · cases ho
    exact Pseudo.expand_wf _
  · obtain ⟨v, -, rfl⟩ := Option.map_eq_some_iff.mp ho
    exact Pseudo.expand_wf _
  · obtain ⟨v1, -, hv1⟩ := Option.bind_eq_some_iff.mp ho
    obtain ⟨v2, -, rfl⟩ := Option.map_eq_some_iff.mp hv1
    exact Pseudo.expand_wf _
  · cases ho

theorem secRun_readsWf : ReadsWf fun ops => if ops = [] then some Pseudo.secRun.expand else none := by
  intro ops is ho
  obtain ⟨-, ⟨⟩⟩ := Option.ite_none_right_eq_some.mp ho
  exact Pseudo.expand_wf _

/-- Every mnemonic of R91 (the first sixteen rows) and of R92 gives well-formed instructions. Only `rtc.set`
and `rtc.load` have a value to check. -/
theorem syntaxTable_readsWf : ∀ p ∈ syntaxTable, ReadsWf p.2 := by
  simp only [syntaxTable, List.forall_mem_append, List.forall_mem_cons]
  exact ⟨⟨takes2_readsWf fun _ _ => rfl, takes0_readsWf rfl, takes1_readsWf fun _ => rfl, takes0_readsWf rfl,
    takes0_readsWf rfl, takesRtcSet_readsWf, takes1_readsWf fun _ => rfl, takes1_readsWf fun _ => rfl,
    takes1_readsWf fun _ => rfl, takes2_readsWf fun _ _ => rfl, takes1_readsWf fun _ => rfl,
    takes1_readsWf fun _ => rfl, takes0_readsWf rfl, takes2_readsWf fun _ _ => rfl, takes1_readsWf fun _ => rfl,
    takes1_readsWf fun _ => rfl, List.forall_mem_nil _⟩,
    takes2_readsWf fun _ _ => Pseudo.expand_wf _, takesRtcLoad_readsWf, secRun_readsWf,
    takes2_readsWf fun _ _ => Pseudo.expand_wf _, takesFtRun_readsWf, takes2_readsWf fun _ _ => Pseudo.expand_wf _,
    takes2_readsWf fun _ _ => Pseudo.expand_wf _, List.forall_mem_nil _⟩

theorem assembleLine_wf {line : List Char} {is : List Instr} (h : assembleLine line = some is) :
    is.all Instr.wf = true := by
  unfold assembleLine at h
  split at h
  split at h
  · cases h
    rfl
  · obtain ⟨p, hp, hr⟩ := Option.bind_eq_some_iff.mp h
    exact syntaxTable_readsWf p (List.mem_of_find?_eq_some hp) _ _ hr

/-- Settles O6: every instruction a line gives is well-formed, and so its label meets R86 (`wfWord_encode`). -/
theorem assembledLinesAreWellFormedLabels : Obligations.AssembledLinesAreWellFormedLabels := fun _ _ h i hi =>
  wfWord_encode (List.all_eq_true.mp (assembleLine_wf h) i hi)

end Sys2Proof.Machine
end

section
/-! The bounded buffer: one append, a row of appends from empty, and a buffer's length under every label (R110 to R115). -/

namespace Sys2Proof.Machine

/-! ### One append -/

theorem storeSample_buf_get_same (ch : Channel) (v : Sample) (s : State) :
    (storeSample ch v s).buf.get ch =
      ⟨(s.buf.get ch).len + 1, fullAt (s.cfg.cap.get ch) ((s.buf.get ch).len + 1)⟩ :=
  ByChannel.get_set_same _ _ _

/-- Below a capacity that fits 16 bits a stored sample counts as one (R110). -/
theorem storeSample_len_toNat {ch : Channel} {s : State} (hl : (s.buf.get ch).len.toNat < s.cfg.cap.get ch)
    (hc : s.cfg.cap.get ch ≤ 65535) (v : Sample) :
    ((storeSample ch v s).buf.get ch).len.toNat = (s.buf.get ch).len.toNat + 1 := by
  rw [storeSample_buf_get_same]
  exact len_succ_toNat hl hc

theorem storeSample_full_iff {ch : Channel} {s : State} (hl : (s.buf.get ch).len.toNat < s.cfg.cap.get ch)
    (hc : s.cfg.cap.get ch ≤ 65535) (v : Sample) :
    ((storeSample ch v s).buf.get ch).full = true ↔ (s.buf.get ch).len.toNat + 1 = s.cfg.cap.get ch := by
  rw [storeSample_buf_get_same, fullAt_iff, len_succ_toNat hl hc]

/-- Settles O38: on a full buffer `tryAppend_full`, and with room the state after it is `storeSample`'s. -/
theorem tryAppendStoresAtTheLengthOrDrops : Obligations.TryAppendStoresAtTheLengthOrDrops := by
  refine fun ch v s => ⟨fun hfull => tryAppend_full hfull v, fun hwf hroom hl hc => ?_⟩
  exact ⟨storeSample ch v s, tryAppend_room hroom hl v, rfl, Memory.read_write_same _ hwf _ _,
    fun _ ha => Memory.read_write_ne _ _ ha, storeSample_len_toNat hl hc v, storeSample_full_iff hl hc v,
    fun _ hd => ByChannel.get_set_ne _ _ hd⟩

/-! ### A row of appends -/

/-- A channel's buffer holds the samples `vs`, in order from index 0, and its flag agrees with its length. -/
structure Holds (ch : Channel) (vs : List Sample) (s : State) : Prop where
  wf : s.mem.wf
  buf : (s.buf.get ch).Ok (s.cfg.cap.get ch)
  len : (s.buf.get ch).len.toNat = vs.length
  data : ∀ j (h : j < vs.length), s.mem.read (sampleAddr ch (BitVec.ofNat 16 j)) = vs[j]

theorem Holds.of_empty {ch : Channel} {s : State} (hc : s.cfg.Ok) (hwf : s.mem.wf) (hb : s.buf.get ch = ⟨0, false⟩) :
    Holds ch [] s where
  wf := hwf
  buf := hb ▸ Buffer.empty_ok (hc.cap_pos ch)
  len := by rw [hb]; rfl
  data _ h := absurd h (Nat.not_lt_zero _)

theorem Holds.full_iff {ch : Channel} {vs : List Sample} {s : State} (h : Holds ch vs s) :
    (s.buf.get ch).full = true ↔ vs.length = s.cfg.cap.get ch := by
  rw [h.buf.full_iff, h.len]

/-- With room, storing a sample puts it behind those held: its index is `len`, and theirs are below. -/
theorem Holds.storeSample {ch : Channel} {vs : List Sample} {s : State} (h : Holds ch vs s) (hc : s.cfg.Ok)
    (hroom : vs.length < s.cfg.cap.get ch) (v : Sample) : Holds ch (vs ++ [v]) (storeSample ch v s) where
  wf := Memory.write_wf _ h.wf _ _
  buf := by
    rw [storeSample_buf_get_same]
    exact Buffer.appended_ok (h.len ▸ hroom) (hc.cap_le ch)
  len := by
    rw [storeSample_len_toNat (h.len ▸ hroom) (hc.cap_le ch), h.len, List.length_append, List.length_singleton]
  data j hj := by
    have hcap := hc.cap_le ch
    have hlen : (s.buf.get ch).len = BitVec.ofNat 16 vs.length := by
      rw [← h.len, BitVec.ofNat_toNat, BitVec.setWidth_eq]
    rw [storeSample_mem, hlen]
    rw [List.length_append, List.length_singleton, Nat.lt_succ_iff_lt_or_eq] at hj
    rcases hj with hlt | rfl
    · have hne : BitVec.ofNat 16 j ≠ BitVec.ofNat 16 vs.length := by
        intro he
        have := congrArg BitVec.toNat he
        simp only [BitVec.toNat_ofNat] at this
        omega
      rw [Memory.read_write_ne _ _ (sampleAddr_ne_of_index ch hne), List.getElem_append_left hlt]
      exact h.data j hlt
    · rw [Memory.read_write_same _ h.wf, List.getElem_concat_length rfl]

/-- As many appends as there is room for all succeed, and the buffer then holds them behind what it held. -/
theorem Holds.appendAll {ch : Channel} {vs : List Sample} :
    ∀ {ws : List Sample} {s : State}, Holds ch ws s → s.cfg.Ok → ws.length + vs.length ≤ s.cfg.cap.get ch →
      ∃ t, appendAll ch vs s = .ok t ∧ t.cfg = s.cfg ∧ Holds ch (ws ++ vs) t := by
  induction vs with
  | nil => exact fun {ws s} h _ _ => ⟨s, rfl, rfl, by rwa [List.append_nil]⟩
  | cons v vs ih =>
    intro ws s h hc hle
    rw [List.length_cons] at hle
    have hroom : ws.length < s.cfg.cap.get ch := by omega
    have hnot : (s.buf.get ch).full = false :=
      Bool.eq_false_iff.mpr fun hf => absurd (h.full_iff.mp hf) (Nat.ne_of_lt hroom)
    have hstep : append ch v s = .ok (Machine.storeSample ch v s) := append_room hnot (h.len ▸ hroom) v
    obtain ⟨t, ht, hcfg, hholds⟩ := ih (h.storeSample hc hroom v) hc (by
      rw [List.length_append, List.length_singleton, storeSample_cfg]
      omega)
    refine ⟨t, ?_, hcfg, ?_⟩
    · rw [Machine.appendAll, hstep]
      exact ht
    · rwa [List.append_assoc] at hholds

/-- Settles O39: an empty buffer holds no sample, `Holds.appendAll` fills it, and a full one drops the next (R111). -/
theorem capacityManyAppendsFillABuffer : Obligations.CapacityManyAppendsFillABuffer := by
  intro ch vs s hc hwf hb hlen
  obtain ⟨t, ht, hcfg, hholds⟩ := (Holds.of_empty hc hwf hb).appendAll (vs := vs) hc (by simp [hlen])
  rw [List.nil_append] at hholds
  have hfull : (t.buf.get ch).full = true := hholds.full_iff.mpr (hcfg ▸ hlen)
  exact ⟨t, ht, hfull, hholds.len.trans hlen, hholds.data, tryAppend_full hfull⟩

/-! ### A buffer's length under every label -/

/-- A label leaves the buffers alone, appends to one, or is the host's reset of one. -/
theorem Effect.buf_cases {i : Instr} {s t : State} (h : Effect i s t) :
    t.buf = s.buf ∨ (∃ ch v, Appended ch v s t.mem t.buf) ∨
    (∃ ch, i = .hcResetBuffer ch ∧ t.buf = s.buf.set ch ⟨0, false⟩) := by
  cases h with
  | doneXThenY _ _ _ _ _ _ _ ha | doneXThenEnd _ _ _ _ _ _ _ ha | doneY _ _ _ _ _ _ _ ha
  | batCompletion _ _ _ _ _ ha | depthCompletion _ _ _ _ _ ha => exact .inr (.inl ⟨_, _, ha⟩)
  | bufferReset ch => exact .inr (.inr ⟨ch, rfl, rfl⟩)
  | _ => exact .inl rfl

/-- An append to any channel leaves a buffer's length, or adds one to that of its own buffer, which had room. -/
theorem Appended.len_cases {ch : Channel} {v : Sample} {s : State} {m : Memory} {b : ByChannel Buffer}
    (ha : Appended ch v s m b) (hc : s.cfg.Ok) (d : Channel) :
    (b.get d).len.toNat = (s.buf.get d).len.toNat ∨
    ((b.get d).len.toNat = (s.buf.get d).len.toNat + 1 ∧ (s.buf.get d).full = false) := by
  rcases ha with ⟨-, -, rfl⟩ | ⟨hf, hl, -, rfl⟩
  · exact .inl rfl
  · by_cases hd : d = ch
    · subst hd
      exact .inr ⟨storeSample_len_toNat hl (hc.cap_le d) v, hf⟩
    · rw [ByChannel.get_set_ne _ _ hd]
      exact .inl rfl

/-- Settles O40: besides the host's reset only an append touches a buffer, and a reset of another one leaves it. -/
theorem lengthsNeverDecreaseBetweenHostResets : Obligations.LengthsNeverDecreaseBetweenHostResets := by
  intro i s t ch hc h hi
  rcases (exec_next h).2.buf_cases with hb | ⟨d, v, ha⟩ | ⟨d, rfl, hb⟩
  · exact .inl (by rw [hb])
  · exact ha.len_cases hc ch
  · have hd : ch ≠ d := fun e => hi (e ▸ rfl)
    exact .inl (by rw [hb, ByChannel.get_set_ne _ _ hd])

end Sys2Proof.Machine
end

section
/-! The period classifier: one tick and a row of ticks of a counter, its comparator's bounds, and who writes it
(R130 to R138). -/

namespace Sys2Proof.Machine

/-! ### One tick -/

theorem countTick_running {c : ClassifierState} (h : c.run = true) (wT : Nat) :
    countTick wT c = { c with cnt := (c.cnt + 1) % 2 ^ wT } := if_pos h

theorem countTick_stopped {c : ClassifierState} (h : c.run = false) (wT : Nat) : countTick wT c = c := by
  simp [countTick, h]

/-- Settles O17: the next state is `Effect.counted`'s, and the counter in it is `countTick`'s. -/
theorem timerTickCountsWhileRunning : Obligations.TimerTickCountsWhileRunning := by
  intro k s hf
  refine ⟨rfl, { s with cls := s.cls.set k (countTick s.cfg.wT (s.cls.get k)) }, exec_of_effect hf (.counted k s), rfl,
    fun j hj => ByClassifier.get_set_ne _ _ hj, ?_, ?_, fun hr => ?_, fun hr => ?_⟩
  · rw [ByClassifier.get_set_same, countTick_eq]
  · rw [ByClassifier.get_set_same, countTick_eq]
  · rw [ByClassifier.get_set_same, countTick_running hr]
  · rw [countTick_stopped hr, ByClassifier.set_get]

/-! ### A row of ticks -/

theorem takeLabel_encode {i : Instr} (h : i.wf = true) (s : State) : takeLabel (encode i) s = exec i s :=
  takeLabel_of_decode (decodeOfEncodeGivesTheInstructionBack i h) s

/-- The same state with counter `k` at `n`, modulo 2^W_T. -/
def State.withCount (k : Classifier) (n : Nat) (s : State) : State :=
  { s with cls := s.cls.set k { s.cls.get k with cnt := n % 2 ^ s.cfg.wT } }

theorem State.withCount_zero {k : Classifier} {s : State} (h : (s.cls.get k).cnt = 0) : s.withCount k 0 = s := by
  rw [State.withCount, Nat.zero_mod, ← h, ByClassifier.set_get]

/-- A tick of a running counter is one more, whatever it wrapped at before (R137). -/
theorem takeLabel_tick_withCount {k : Classifier} {s : State} (hf : s.fault = 0#8) (hr : (s.cls.get k).run = true)
    (n : Nat) : takeLabel (encode (.evTimerTick k)) (s.withCount k n) = .next (s.withCount k (n + 1)) := by
  rw [takeLabel_encode rfl, exec_of_effect (s := s.withCount k n) hf (.counted k _)]
  simp [State.withCount, countTick_running, hr]

theorem takeLabels_ticks_withCount {k : Classifier} {s : State} (hf : s.fault = 0#8) (hr : (s.cls.get k).run = true)
    (n : Nat) : ∀ m,
      takeLabels (encodeAll (List.replicate n (.evTimerTick k))) (s.withCount k m) = .next (s.withCount k (m + n)) := by
  induction n with
  | zero => exact fun _ => rfl
  | succ n ih =>
    intro m
    have hrest := ih (m + 1)
    rw [Nat.add_right_comm] at hrest
    exact takeLabels_cons_eq_next.mpr ⟨_, takeLabel_tick_withCount hf hr m, hrest⟩

/-- Settles O18: a counter at 0 is one at 0 modulo 2^W_T, and each of the ticks counts one (`takeLabels_ticks_withCount`). -/
theorem anIntervalIsCountedModuloTheCounterWidth : Obligations.AnIntervalIsCountedModuloTheCounterWidth := by
  intro k n s hf hr hzero
  have hticks := takeLabels_ticks_withCount hf hr n 0
  rwa [State.withCount_zero hzero, Nat.zero_add] at hticks

/-! ### The comparator -/

/-- The comparator is inclusive at both bounds (R131). -/
theorem classify_active_iff (k : Classifier) (s : State) :
    ((classify k s).cls.get k).active = true ↔
      s.cfg.lo.get k ≤ (s.cls.get k).cnt ∧ (s.cls.get k).cnt ≤ s.cfg.hi.get k := by
  rw [classify_cls, ByClassifier.get_set_same, inBounds_iff]

/-- Settles O24: no count is between crossed bounds, 0 bounds none from below, and no W_T-bit count is above 2^W_T − 1. -/
theorem classificationAtExtremeBounds : Obligations.ClassificationAtExtremeBounds := by
  intro k s
  rw [← Bool.not_eq_true, classify_active_iff]
  refine ⟨fun hcross ⟨hlo, hhi⟩ => ?_, fun hlo => ?_, fun hlo hhi hcnt => ?_⟩
  · exact absurd (hlo.trans hhi) (Nat.not_le.mpr hcross)
  · simp [hlo]
  · rw [hlo, hhi]
    exact ⟨Nat.zero_le _, Nat.le_sub_one_of_lt hcnt⟩

/-! ### The writers of a classifier -/

/-- The host's name for a classifier's output flag (R28). -/
def classifierFlag : Classifier → Flag
  | .water => .water
  | .net => .net

/-- The pin whose transitions drive a classifier (R135). -/
def classifierPin : Classifier → Pin
  | .water => .wps
  | .net => .net

/-- A label leaves the classifiers alone, ticks one's counter, clears one's flag, or runs the PC handler (R138). -/
theorem Effect.cls_cases {i : Instr} {s t : State} (h : Effect i s t) :
    t.cls = s.cls ∨
    (∃ k, i = .evTimerTick k ∧ t.cls = s.cls.set k (countTick s.cfg.wT (s.cls.get k))) ∨
    (∃ k, i = .hcClearFlag (classifierFlag k) ∧ t.cls = s.cls.set k { s.cls.get k with active := false }) ∨
    (i = .dispatch .pc ∧ ∀ k, t.cls.get k =
      reclassified (s.pin.get (classifierPin k) != s.last.get (classifierPin k)) (s.cfg.lo.get k) (s.cfg.hi.get k)
        (s.cls.get k)) := by
  cases h with
  | counted k => exact .inr (.inl ⟨k, rfl, rfl⟩)
  | waterCleared => exact .inr (.inr (.inl ⟨.water, rfl, rfl⟩))
  | netCleared => exact .inr (.inr (.inl ⟨.net, rfl, rfl⟩))
  | pinHandler => exact .inr (.inr (.inr ⟨rfl, fun k => by cases k <;> rfl⟩))
  | _ => exact .inl rfl

theorem ByClassifier.eq_of_get_set_ne {α : Type} {b : ByClassifier α} {j k : Classifier} {v : α}
    (h : (b.set j v).get k ≠ b.get k) : k = j :=
  by_contra fun hkj => h (ByClassifier.get_set_ne _ _ hkj)

theorem run_of_countTick_ne {wT : Nat} {c : ClassifierState} (h : countTick wT c ≠ c) : c.run = true := by
  by_contra hr
  exact h (countTick_stopped (Bool.not_eq_true _ ▸ hr) wT)

theorem changed_of_reclassified_ne {changed : Bool} {lo hi : Nat} {c : ClassifierState}
    (h : reclassified changed lo hi c ≠ c) : changed = true := by
  cases changed
  · exact absurd rfl h
  · rfl

/-- Settles O25: of the writers `Effect.cls_cases` names, the one of another classifier leaves this one, a tick of a
stopped counter changes nothing, and neither does the PC handler where the signal has its last-known level. -/
theorem classifiersChangeOnlyByTheirWriters : Obligations.ClassifiersChangeOnlyByTheirWriters := by
  intro i s t k h hne
  rcases (exec_next h).2.cls_cases with hcls | ⟨j, rfl, hcls⟩ | ⟨j, rfl, hcls⟩ | ⟨rfl, hcls⟩
  · exact absurd (congrArg (·.get k) hcls) hne
  · rw [hcls] at hne ⊢
    obtain rfl := ByClassifier.eq_of_get_set_ne hne
    rw [ByClassifier.get_set_same] at hne ⊢
    exact .inl ⟨rfl, run_of_countTick_ne hne, countTick_eq _ _⟩
  · rw [hcls] at hne ⊢
    obtain rfl := ByClassifier.eq_of_get_set_ne hne
    rw [ByClassifier.get_set_same]
    exact .inr (.inl ⟨by cases k <;> rfl, rfl⟩)
  · rw [hcls k] at hne ⊢
    have hchanged := changed_of_reclassified_ne hne
    rw [hchanged]
    refine .inr (.inr ⟨rfl, ?_, rfl, rfl, inBounds_iff _ _ _⟩)
    cases k <;> exact bne_iff_ne.mp hchanged

end Sys2Proof.Machine
end

section
/-! The pin-change dispatcher: the labels that only raise a latch, the PC handler's run, and a pin that returns between
two runs (R150 to R157; R174, R194 and R201 for the other ticks). -/

namespace Sys2Proof.Machine

/-! ### Raising a latch -/

/-- A latch that is already 1 coalesces (R263). -/
theorem latch_of_pending {src : Source} {s : State} (h : s.pend.get src = true) : latch src s = s := by
  rw [latch, ← h, BySource.set_get]

/-- Settles O16: each tick label's next state is `latch` of its source, which coalesces. -/
theorem tickLabelsLatchTheirSource : Obligations.TickLabelsLatchTheirSource := by
  intro i src w s hmem hf
  have hlatches : encode i = w ∧ Effect i s (latch src s) := by
    simp only [List.mem_cons, List.not_mem_nil, or_false, Prod.mk.injEq] at hmem
    rcases hmem with ⟨rfl, rfl, rfl⟩ | ⟨rfl, rfl, rfl⟩ | ⟨rfl, rfl, rfl⟩ | ⟨rfl, rfl, rfl⟩ | ⟨rfl, rfl, rfl⟩
    · exact ⟨rfl, .pinNotified s⟩
    · exact ⟨rfl, .fastTick s⟩
    · exact ⟨rfl, .secondTick s⟩
    · exact ⟨rfl, .triggerTick .bat s⟩
    · exact ⟨rfl, .triggerTick .depth s⟩
  obtain ⟨hencode, heffect⟩ := hlatches
  exact ⟨hencode, latch src s, exec_of_effect hf heffect, rfl, BySource.get_set_same _ _ _,
    fun _ hq => BySource.get_set_ne _ _ hq, latch_of_pending⟩

/-! ### Driving a pin -/

theorem encode_evPinLevel (p : Pin) (l : Bool) :
    encode (.evPinLevel p l) = mkLabel 0x01 p.code (if l then 1 else 0) := by
  cases l <;> rfl

/-- Settles O15: a pin at the level driven is `Effect.pinSame`, at the other one `Effect.pinChanged`. -/
theorem pinLevelDrivesThePinAndLatchesOnChange : Obligations.PinLevelDrivesThePinAndLatchesOnChange := by
  intro p l s hf
  refine ⟨encode_evPinLevel p l, ?_⟩
  by_cases hp : s.pin.get p = l
  · exact ⟨s, exec_of_effect hf (.pinSame p l s hp), rfl, hp, fun _ _ => rfl, by simp [hp], fun _ _ => rfl⟩
  · exact ⟨_, exec_of_effect hf (.pinChanged p l s hp), rfl, ByPin.get_set_same _ _ _,
      fun _ hq => ByPin.get_set_ne _ _ hq, by simp [hp], fun _ hq => BySource.get_set_ne _ _ hq⟩

/-! ### The PC handler -/

/-- A signal with its last-known level leaves its classifier alone; another one is classified, inclusively at both
bounds (R130, R131, R150). -/
theorem reclassified_spec (level last : Bool) (lo hi : Nat) (c : ClassifierState) :
    (level = last → reclassified (level != last) lo hi c = c) ∧
    (level ≠ last → (reclassified (level != last) lo hi c).cnt = 0 ∧ (reclassified (level != last) lo hi c).run = true ∧
      ((reclassified (level != last) lo hi c).active = true ↔ lo ≤ c.cnt ∧ c.cnt ≤ hi)) := by
  by_cases h : level = last
  · simp [h, reclassified]
  · simp [h, reclassified, inBounds_iff]

/-- Settles O21: the next state is `Effect.pinHandler`'s, and each classifier in it is `reclassified_spec`'s. -/
theorem pinChangeHandlerRecordsAndClassifies : Obligations.PinChangeHandlerRecordsAndClassifies := by
  intro s hf hpend hadm
  obtain ⟨hwaterSame, hwaterChanged⟩ :=
    reclassified_spec s.pin.wps s.last.wps s.cfg.lo.water s.cfg.hi.water s.cls.water
  obtain ⟨hnetSame, hnetChanged⟩ := reclassified_spec s.pin.net s.last.net s.cfg.lo.net s.cfg.hi.net s.cls.net
  exact ⟨rfl, _, exec_of_effect hf (.pinHandler s hpend ((admitted_iff _ _).mpr hadm)), rfl, rfl, hwaterSame,
    hwaterChanged, hnetSame, hnetChanged, BySource.get_set_same s.pend .pc false, fun _ hq => BySource.get_set_ne _ _ hq⟩

/-- No pin differs from its last-known level, so none of the three reactions does anything. -/
theorem handlerPC_of_last_eq {s : State} (h : s.last = s.pin) : handlerPC s = s := by
  have hsame (p : Pin) : pinReaction p (s.pin.get p) s = s := pinReaction_same (by rw [h])
  calc handlerPC s
      = pinReaction .aux (s.pin.get .aux) (pinReaction .net (s.pin.get .net) (pinReaction .wps (s.pin.get .wps) s)) := rfl
    _ = s := by rw [hsame, hsame, hsame]

/-- Settles O22: after the latch is cleared the handler runs, and does nothing (`handlerPC_of_last_eq`). -/
theorem spuriousPinChangeChangesNothing : Obligations.SpuriousPinChangeChangesNothing := by
  intro s hf hpend hadm hlast
  have hrun : runHandler .pc (unlatch .pc s) = .ok (unlatch .pc s) := congrArg Except.ok (handlerPC_of_last_eq hlast)
  exact execDispatch_eq_next.mpr ⟨hf, hpend, (admitted_iff _ _).mpr hadm, hrun⟩

/-! ### A pin that returns -/

theorem takeLabels_encodeAll_cons {i : Instr} {is : List Instr} {s t u : State} (hwf : i.wf = true)
    (hi : exec i s = .next u) (his : takeLabels (encodeAll is) u = .next t) :
    takeLabels (encodeAll (i :: is)) s = .next t :=
  takeLabels_cons_eq_next.mpr ⟨u, (takeLabel_encode hwf s).trans hi, his⟩

/-- The same state after pin `p` has changed to level `l` (R156). -/
def State.pinChanged (p : Pin) (l : Bool) (s : State) : State := latch .pc { s with pin := s.pin.set p l }

theorem exec_evPinLevel_changed {p : Pin} {l : Bool} {s : State} (hf : s.fault = 0#8) (hp : s.pin.get p ≠ l) :
    exec (.evPinLevel p l) s = .next (s.pinChanged p l) := exec_of_effect hf (.pinChanged p l s hp)

/-- A pin that changes and changes back leaves the pins as they were, and PC pending. -/
theorem State.pinChanged_back (p : Pin) (l : Bool) (s : State) :
    (s.pinChanged p l).pinChanged p (s.pin.get p) = latch .pc s := by
  simp [State.pinChanged, latch]

/-- A latch raised and cleared again is as it was when nothing was pending. -/
theorem unlatch_latch {src : Source} {s : State} (h : s.pend.get src = false) : unlatch src (latch src s) = s := by
  rw [unlatch, latch_pend, BySource.set_set, ← h, BySource.set_get]
  rfl

/-- Settles O23: both changes latch PC, the second restores the pin, and the run that follows is spurious (O22). -/
theorem aPinThatReturnsBetweenRunsIsNotSeen : Obligations.APinThatReturnsBetweenRunsIsNotSeen := by
  intro p s hf hidle hpend hlast
  have haway : exec (.evPinLevel p (!(s.pin.get p))) s = .next (s.pinChanged p !(s.pin.get p)) :=
    exec_evPinLevel_changed hf (by simp)
  have hback : exec (.evPinLevel p (s.pin.get p)) (s.pinChanged p !(s.pin.get p)) = .next (latch .pc s) := by
    rw [← State.pinChanged_back p (!(s.pin.get p)) s]
    exact exec_evPinLevel_changed hf (by simp [State.pinChanged])
  have hrun : exec (.dispatch .pc) (latch .pc s) = .next s := by
    rw [spuriousPinChangeChangesNothing (latch .pc s) hf (BySource.get_set_same s.pend .pc true) (.inl hidle) hlast]
    exact congrArg Host.Outcome.next (unlatch_latch hpend)
  exact takeLabels_encodeAll_cons rfl haway (takeLabels_encodeAll_cons rfl hback (takeLabels_encodeAll_cons rfl hrun rfl))

end Sys2Proof.Machine
end

section
/-! The day-rollover comparator: the clock's port written one field at a time, and the ST handler's run (R170 to R175). -/

namespace Sys2Proof.Machine

/-! ### The clock's port -/

/-- A field written with any value, one no label carries among them, holds its low 8 bits, YEAR all 16 (R85, log 14). -/
theorem calGet_calSet_truncated (t : CalTime) (fld : CalField) (v : BitVec 16) :
    calGet (calSet t fld v) fld = if fld = .year then v else (v.setWidth 8).setWidth 16 := by
  cases fld <;> rfl

/-- Settles O19: the next state is `Effect.rtcSet`'s, and `calSet` writes the named field alone. -/
theorem rtcSetWritesOneFieldOfThePort : Obligations.RtcSetWritesOneFieldOfThePort := by
  intro fld v s hf
  exact ⟨rfl, _, exec_of_effect hf (.rtcSet fld v s), rfl, calGet_calSet_truncated _ _ _,
    fun _ hg => calGet_calSet_ne _ _ hg⟩

/-! ### The ST handler -/

/-- `midnight` after the ST handler: kept when set, and set on a change of DAY (R170, R172). -/
theorem handlerST_midnight_iff (s : State) :
    (handlerST s).midnight = true ↔ s.midnight = true ∨ s.cal.cur.day ≠ s.rtc.day := by
  rw [← dayChanged_iff, or_comm]
  exact Bool.or_eq_true_iff

/-- Settles O26: the next state is `Effect.secondHandler`'s, and its flag is `handlerST_midnight_iff`'s. -/
theorem secondTickHandlerShiftsAndComparesDay : Obligations.SecondTickHandlerShiftsAndComparesDay := by
  intro s hf hpend hadm
  exact ⟨rfl, _, exec_of_effect hf (.secondHandler s hpend ((admitted_iff _ _).mpr hadm)), rfl, rfl, rfl,
    handlerST_midnight_iff s, BySource.get_set_same s.pend .st false, fun _ hq => BySource.get_set_ne _ _ hq⟩

end Sys2Proof.Machine
end

section
/-! The analog sampler and the single-channel triggers, label by label: who moves `fst` and `tst`, the FT, BT, DT, BC and
DC handlers, and EV_AFE_DONE (R190 to R206). -/

namespace Sys2Proof.Machine

/-! ### The writers of `fst` and `tst` -/

/-- FT's priority is not above itself, so no busy-wait admits it (R265). -/
theorem idle_of_admitted_ft {s : State} (h : admitted .ft s = true) : s.fst = .idle :=
  ((admitted_iff _ _).mp h).resolve_right (Nat.lt_irrefl _)

/-- A label leaves `fst` alone, starts a busy-wait from IDLE, or is the fast sampler's completion (R192, R196). -/
theorem Effect.fst_cases {i : Instr} {s t : State} (h : Effect i s t) :
    t.fst = s.fst ∨ s.fst = .idle ∨ ((∃ v, i = .evAfeDone v) ∧ s.owner = .fast ∧ s.afe.conv = true) := by
  cases h with
  | fastHandlerX _ _ ha | fastHandlerY _ _ ha => exact .inr (.inl (idle_of_admitted_ft ha))
  | doneXThenY v _ _ _ hc ho | doneXThenEnd v _ _ _ hc ho | doneY v _ _ _ hc ho => exact .inr (.inr ⟨⟨v, rfl⟩, ho, hc⟩)
  | _ => exact .inl rfl

/-- Settles O34: of the writers `Effect.fst_cases` names, the FT handler runs in no busy-wait. -/
theorem onlyACompletionEndsTheBusyWait : Obligations.OnlyACompletionEndsTheBusyWait := by
  intro i s t h hwait hne
  exact ((exec_next h).2.fst_cases.resolve_left hne).resolve_left hwait

/-- A label leaves the triggers' states alone, or runs a trigger's handler or its completion handler (R204). -/
theorem Effect.tst_cases {i : Instr} {s t : State} (h : Effect i s t) :
    t.tst = s.tst ∨
    (∃ c, i = .dispatch (trigSource c) ∧ s.owner = .none ∧ t.tst = s.tst.set c .triggered) ∨
    (∃ c, i = .dispatch (doneSource c) ∧ t.tst = s.tst.set c .idle) := by
  cases h with
  | batTrigger _ _ _ ho => exact .inr (.inl ⟨.bat, rfl, ho, rfl⟩)
  | depthTrigger _ _ _ ho => exact .inr (.inl ⟨.depth, rfl, ho, rfl⟩)
  | batCompletion => exact .inr (.inr ⟨.bat, rfl, rfl⟩)
  | depthCompletion => exact .inr (.inr ⟨.depth, rfl, rfl⟩)
  | _ => exact .inl rfl

theorem ByTrigger.eq_of_get_set_ne {α : Type} {b : ByTrigger α} {c d : TrigChannel} {v : α}
    (h : (b.set d v).get c ≠ b.get c) : c = d :=
  by_contra fun hcd => h (ByTrigger.get_set_ne _ _ hcd)

/-- Settles O37: of the writers `Effect.tst_cases` names, one of the other channel leaves this one's state. -/
theorem triggerStatesMoveOnlyAtTheirHandlers : Obligations.TriggerStatesMoveOnlyAtTheirHandlers := by
  intro i s t c h hne
  rcases (exec_next h).2.tst_cases with htst | ⟨d, rfl, ho, htst⟩ | ⟨d, rfl, htst⟩
  · exact absurd (congrArg (·.get c) htst) hne
  · rw [htst] at hne ⊢
    obtain rfl := ByTrigger.eq_of_get_set_ne hne
    exact .inl ⟨ByTrigger.get_set_same _ _ _, by cases c <;> rfl, ho⟩
  · rw [htst] at hne ⊢
    obtain rfl := ByTrigger.eq_of_get_set_ne hne
    exact .inr ⟨ByTrigger.get_set_same _ _ _, by cases c <;> rfl⟩

/-! ### The handlers that start a conversion -/

/-- A handler that finds the front-end held faults with the state before the label (R191, R280). -/
theorem exec_dispatch_conflict {src : Source} {w : Word} {s : State} (hw : encode (.dispatch src) = w)
    (hf : s.fault = 0#8) (hp : s.pend.get src = true) (ha : admitted src s = true)
    (hr : runHandler src (unlatch src s) = .error (.raise .afeConflict)) :
    exec (.dispatch src) s = .fault (.afeConflict { s with fault := 2, faultLabel := w }) := by
  subst hw
  exact execDispatch_eq_fault.mpr ⟨hf, hp, ha, finish_eq_fault.mpr (.inl ⟨_, hr, rfl⟩)⟩

/-- The state after the FT handler has started a channel's conversion, which it waits for in `wait` (R192). -/
def State.fastStarted (ch : Channel) (wait : FastState) (s : State) : State :=
  { s with owner := .fast, fst := wait, afe := ⟨chselOf ch, .refHigh, true, true, s.afe.res⟩, pend := s.pend.set .ft false }

theorem exec_dispatch_ft_x {s : State} (hf : s.fault = 0#8) (hp : s.pend.get .ft = true) (hi : s.fst = .idle)
    (hx : (s.buf.get .x).full = false) (ho : s.owner = .none) :
    exec (.dispatch .ft) s = .next (s.fastStarted .x .waitX) :=
  exec_of_effect hf (.fastHandlerX s hp (admitted_of_idle _ hi) hx ho)

/-- Settles O28: one `Effect` for each clause that completes, and `handlerFT_eq_error` for the conflict. -/
theorem fastTickHandlerStartsTheFirstChannelNotFull : Obligations.FastTickHandlerStartsTheFirstChannelNotFull := by
  intro s hf hp hi
  have hadm : admitted .ft s = true := admitted_of_idle _ hi
  exact ⟨rfl, exec_dispatch_ft_x hf hp hi,
    fun hx hy ho => exec_of_effect hf (.fastHandlerY s hp hadm hx hy ho),
    fun hx hy => exec_of_effect hf (.fastHandlerFull s hp hadm hx hy),
    fun hroom ho => exec_dispatch_conflict rfl hf hp hadm (handlerFT_eq_error.mpr ⟨hroom, ho, rfl⟩)⟩

/-- The state after a trigger handler has started its conversion (R200). -/
def State.trigStarted (c : TrigChannel) (s : State) : State :=
  { s with
    owner := trigOwner c, tst := s.tst.set c .triggered
    afe := ⟨chselOf (trigBuffer c), s.cfg.refTrig.get c, true, true, s.afe.res⟩, pend := s.pend.set (trigSource c) false }

theorem exec_dispatch_trigSource {c : TrigChannel} {s : State} (hf : s.fault = 0#8)
    (hp : s.pend.get (trigSource c) = true) (ha : admitted (trigSource c) s = true) (ho : s.owner = .none) :
    exec (.dispatch (trigSource c)) s = .next (s.trigStarted c) := by
  cases c with
  | depth => exact exec_of_effect hf (.depthTrigger s hp ha ho)
  | bat => exact exec_of_effect hf (.batTrigger s hp ha ho)

theorem runHandler_trigSource (c : TrigChannel) : runHandler (trigSource c) = handlerTrig c := by
  cases c <;> rfl

/-- Settles O29: a free front-end is `exec_dispatch_trigSource`, a held one the conflict of `handlerTrig_held`. -/
theorem triggerHandlersStartAConversionOrConflict : Obligations.TriggerHandlersStartAConversionOrConflict := by
  intro src c own sel w s hmem hf hp hadm
  have hnames : src = trigSource c ∧ own = trigOwner c ∧ sel = chselOf (trigBuffer c) ∧
      encode (.dispatch (trigSource c)) = w := by
    simp only [List.mem_cons, List.not_mem_nil, or_false, Prod.mk.injEq] at hmem
    rcases hmem with ⟨rfl, rfl, rfl, rfl, rfl⟩ | ⟨rfl, rfl, rfl, rfl, rfl⟩ <;> exact ⟨rfl, rfl, rfl, rfl⟩
  obtain ⟨rfl, rfl, rfl, hw⟩ := hnames
  have ha : admitted (trigSource c) s = true := (admitted_iff _ _).mpr hadm
  refine ⟨hw, exec_dispatch_trigSource hf hp ha, fun ho => exec_dispatch_conflict hw hf hp ha ?_⟩
  rw [runHandler_trigSource]
  exact handlerTrig_held c ho

/-! ### The completion handlers -/

/-- What an append leaves where it has an entry to write or nothing to write, and what that holds (`append_spec`). -/
theorem exists_appended {ch : Channel} {s : State} (v : Sample) (hw : s.mem.wf)
    (hb : (s.buf.get ch).full = true ∨ (s.buf.get ch).len.toNat < s.cfg.cap.get ch) :
    ∃ m b, Appended ch v s m b ∧
      ((s.buf.get ch).full = true → m = s.mem ∧ b = s.buf) ∧
      ((s.buf.get ch).full = false →
        m.read (sampleAddr ch (s.buf.get ch).len) = v ∧
        (∀ a, a ≠ sampleAddr ch (s.buf.get ch).len → m.read a = s.mem.read a) ∧
        (b.get ch).len = (s.buf.get ch).len + 1 ∧
        ((b.get ch).full = true ↔ ((s.buf.get ch).len + 1).toNat = s.cfg.cap.get ch) ∧
        (∀ d, d ≠ ch → b.get d = s.buf.get d)) := by
  obtain ⟨u, hu, -, hspec⟩ := append_spec v hw hb
  exact ⟨u.mem, u.buf, (append_appended hu).1, hspec⟩

/-- The state after a completion handler whose append left `m` and `b` (R202). -/
def State.trigFreed (c : TrigChannel) (m : Memory) (b : ByChannel Buffer) (s : State) : State :=
  { s with mem := m, buf := b, owner := .none, tst := s.tst.set c .idle, pend := s.pend.set (doneSource c) false }

theorem exec_dispatch_doneSource {c : TrigChannel} {s : State} {m : Memory} {b : ByChannel Buffer} (hf : s.fault = 0#8)
    (hp : s.pend.get (doneSource c) = true) (ha : admitted (doneSource c) s = true)
    (hm : Appended (trigBuffer c) s.afe.res s m b) :
    exec (.dispatch (doneSource c)) s = .next (s.trigFreed c m b) := by
  cases c with
  | depth => exact exec_of_effect hf (.depthCompletion s m b hp ha hm)
  | bat => exact exec_of_effect hf (.batCompletion s m b hp ha hm)

/-- Settles O30: the next state is `exec_dispatch_doneSource`'s, and `exists_appended` says what its append leaves. -/
theorem completionHandlersAppendAndFreeTheFrontEnd : Obligations.CompletionHandlersAppendAndFreeTheFrontEnd := by
  intro src c ch w s hmem hf hp hadm hwf hb
  have hnames : src = doneSource c ∧ ch = trigBuffer c ∧ encode (.dispatch (doneSource c)) = w := by
    simp only [List.mem_cons, List.not_mem_nil, or_false, Prod.mk.injEq] at hmem
    rcases hmem with ⟨rfl, rfl, rfl, rfl⟩ | ⟨rfl, rfl, rfl, rfl⟩ <;> exact ⟨rfl, rfl, rfl⟩
  obtain ⟨rfl, rfl, hw⟩ := hnames
  obtain ⟨m, b, happ, hspec⟩ := exists_appended s.afe.res hwf hb
  exact ⟨hw, s.trigFreed c m b, exec_dispatch_doneSource hf hp ((admitted_iff _ _).mpr hadm) happ, rfl, hspec⟩

/-! ### EV_AFE_DONE -/

/-- The state after a trigger's conversion has completed with `v` (R195). -/
def State.trigDone (c : TrigChannel) (v : Sample) (s : State) : State :=
  { s with afe := { s.afe with conv := false, res := v }, pend := s.pend.set (doneSource c) true }

theorem exec_evAfeDone_trigOwner {c : TrigChannel} {s : State} (v : Sample) (hf : s.fault = 0#8)
    (hc : s.afe.conv = true) (ho : s.owner = trigOwner c) : exec (.evAfeDone v) s = .next (s.trigDone c v) := by
  cases c with
  | depth => exact exec_of_effect hf (.doneDepth v s hc ho)
  | bat => exact exec_of_effect hf (.doneBat v s hc ho)

theorem exec_evAfeDone_blocked {s : State} (v : Sample) (hf : s.fault = 0#8) (hc : s.afe.conv = false) :
    exec (.evAfeDone v) s = .refused .blockedNoConversion :=
  (ifLive_of_live hf _).trans (by rw [hc]; rfl)

/-- Settles O31: `exec_evAfeDone_blocked`, then the `Effect` of each owner but the fast sampler. -/
theorem completionOfATriggeredConversionLatchesItsSource :
    Obligations.CompletionOfATriggeredConversionLatchesItsSource := by
  intro v s hf
  exact ⟨rfl, exec_evAfeDone_blocked v hf, exec_evAfeDone_trigOwner (c := .bat) v hf,
    exec_evAfeDone_trigOwner (c := .depth) v hf, fun hc ho => exec_of_effect hf (.doneUnowned v s hc ho)⟩

/-- An append to another channel leaves a channel's buffer alone (R110). -/
theorem Appended.buf_get_ne {ch d : Channel} {v : Sample} {s : State} {m : Memory} {b : ByChannel Buffer}
    (h : Appended ch v s m b) (hd : d ≠ ch) : b.get d = s.buf.get d := by
  rcases h with ⟨-, -, rfl⟩ | ⟨-, -, -, rfl⟩
  · rfl
  · exact ByChannel.get_set_ne _ _ hd

/-- Settles O32: the append to x leaves y's full flag, which decides between `Effect.doneXThenY` and
`Effect.doneXThenEnd`. -/
theorem completionOfTheXConversionAppendsThenGoesToY : Obligations.CompletionOfTheXConversionAppendsThenGoesToY := by
  intro v s hf hc ho hw hwf hb
  obtain ⟨m, b, happ, hfull, hroom⟩ := exists_appended v hwf hb
  have hkept : b.y = s.buf.y := happ.buf_get_ne (d := .y) (by decide)
  cases hy : (s.buf.get .y).full with
  | false =>
    exact ⟨_, exec_of_effect hf (.doneXThenY v s m b hc ho hw happ (hkept.symm ▸ hy)), rfl, hfull, hroom,
      fun _ => ⟨rfl, ho, rfl⟩, nofun⟩
  | true =>
    exact ⟨_, exec_of_effect hf (.doneXThenEnd v s m b hc ho hw happ (hkept.symm ▸ hy)), rfl, hfull, hroom,
      nofun, fun _ => ⟨rfl, rfl, rfl⟩⟩

/-- Settles O33: the next state is `Effect.doneY`'s, and `exists_appended` says what its append leaves. -/
theorem completionOfTheYConversionAppendsAndReturns : Obligations.CompletionOfTheYConversionAppendsAndReturns := by
  intro v s hf hc ho hw hwf hb
  obtain ⟨m, b, happ, hspec⟩ := exists_appended v hwf hb
  exact ⟨_, exec_of_effect hf (.doneY v s m b hc ho (by simp [hw]) happ), rfl, hspec⟩

end Sys2Proof.Machine
end

section
/-! Whole cycles of the analog sampler: one fast tick that samples x and y, and one trigger's conversion (R197, R203,
R204). -/

namespace Sys2Proof.Machine

/-- Invariants 1 and 2 leave every append an entry to write or nothing to write (R65). -/
theorem State.Inv.full_or_len_lt {s : State} (h : s.Inv) (ch : Channel) :
    (s.buf.get ch).full = true ∨ (s.buf.get ch).len.toNat < s.cfg.cap.get ch := by
  cases hfull : (s.buf.get ch).full with
  | true => exact .inl rfl
  | false => exact .inr ((h.buf ch).len_lt hfull)

/-! ### One fast tick -/

/-- The state after the x conversion of a fast tick, whose append left `m` and `b`: the y conversion is in flight (R196). -/
def State.fastXDone (v : Sample) (m : Memory) (b : ByChannel Buffer) (s : State) : State :=
  { s.fastStarted .y .waitY with mem := m, buf := b, afe := ⟨.y, .refHigh, true, true, v⟩ }

/-- A fast tick and the completion of the x conversion it starts (R192, R194, R196). -/
theorem takeLabels_fastTick_x {v : Sample} {s : State} {m : Memory} {b : ByChannel Buffer} (hf : s.fault = 0#8)
    (hi : s.fst = .idle) (ho : s.owner = .none) (hx : (s.buf.get .x).full = false) (happ : Appended .x v s m b)
    (hy : (b.get .y).full = false) :
    takeLabels (encodeAll [.evFastTick, .dispatch .ft, .evAfeDone v]) s = .next (s.fastXDone v m b) := by
  have htick : exec .evFastTick s = .next (latch .ft s) := exec_of_effect hf (.fastTick s)
  have hstart : exec (.dispatch .ft) (latch .ft s) = .next (s.fastStarted .x .waitX) := by
    rw [exec_dispatch_ft_x (s := latch .ft s) hf (BySource.get_set_same s.pend .ft true) hi hx ho]
    simp [State.fastStarted]
  have hdone : exec (.evAfeDone v) (s.fastStarted .x .waitX) = .next (s.fastXDone v m b) :=
    exec_of_effect (s := s.fastStarted .x .waitX) hf (.doneXThenY v _ m b rfl rfl rfl happ hy)
  exact takeLabels_encodeAll_cons rfl htick (takeLabels_encodeAll_cons rfl hstart (takeLabels_encodeAll_cons rfl hdone rfl))

/-- The state after a fast tick has sampled x and y, with `m` and `b` what the two appends left (R196). -/
def State.fastSampled (v : Sample) (m : Memory) (b : ByChannel Buffer) (s : State) : State :=
  { s with mem := m, buf := b, pend := s.pend.set .ft false, afe := ⟨.y, .refDefault, false, false, v⟩ }

/-- The completion of the y conversion brings a free front-end back to where it was (R196). -/
theorem takeLabels_fastTick_y {v1 v2 : Sample} {s : State} {m1 m2 : Memory} {b1 b2 : ByChannel Buffer}
    (hf : s.fault = 0#8) (hi : s.fst = .idle) (ho : s.owner = .none) (happ : Appended .y v2 (s.fastXDone v1 m1 b1) m2 b2) :
    takeLabels (encodeAll [.evAfeDone v2]) (s.fastXDone v1 m1 b1) = .next (s.fastSampled v2 m2 b2) := by
  refine takeLabels_encodeAll_cons rfl ?_ rfl
  rw [exec_of_effect (s := s.fastXDone v1 m1 b1) hf (.doneY v2 _ m2 b2 rfl rfl nofun happ)]
  simp [State.fastXDone, State.fastStarted, State.fastSampled, hi, ho]

@[simp] theorem State.fastXDone_cfg (v : Sample) (m : Memory) (b : ByChannel Buffer) (s : State) :
    (s.fastXDone v m b).cfg = s.cfg := rfl

@[simp] theorem State.fastXDone_mem (v : Sample) (m : Memory) (b : ByChannel Buffer) (s : State) :
    (s.fastXDone v m b).mem = m := rfl

@[simp] theorem State.fastXDone_buf (v : Sample) (m : Memory) (b : ByChannel Buffer) (s : State) :
    (s.fastXDone v m b).buf = b := rfl

/-- Settles O35: two appends at addresses of different channels, the second from the storage the first leaves. -/
theorem aFastTickSamplesXStrictlyBeforeY : Obligations.AFastTickSamplesXStrictlyBeforeY := by
  intro v1 v2 s hinv hf hi ho hx hy
  obtain ⟨m1, b1, happ1, -, hstored1⟩ := exists_appended v1 hinv.mem.wf (hinv.full_or_len_lt .x)
  obtain ⟨hread1, hother1, hlen1, -, hbuf1⟩ := hstored1 hx
  have hby : b1.get .y = s.buf.get .y := hbuf1 .y (by decide)
  have hok1 : StorageOk s.cfg m1 b1 := happ1.storageOk hinv.cfg ⟨hinv.mem, hinv.buf⟩
  have hltx : (s.buf.get .x).len.toNat < s.cfg.cap.get .x := (hinv.buf .x).len_lt hx
  have hlty : (s.buf.get .y).len.toNat < s.cfg.cap.get .y := (hinv.buf .y).len_lt hy
  obtain ⟨m2, b2, happ2, -, hstored2⟩ :=
    exists_appended (ch := .y) (s := s.fastXDone v1 m1 b1) v2 hok1.mem.wf (.inr (by simpa [hby] using hlty))
  rw [State.fastXDone_buf, State.fastXDone_mem, hby] at hstored2
  obtain ⟨hread2, hother2, hlen2, -, hbuf2⟩ := hstored2 hy
  have hxy (i j : BitVec 16) : sampleAddr .x i ≠ sampleAddr .y j := sampleAddr_ne_of_channel i j (by decide)
  refine ⟨s.fastXDone v1 m1 b1, s.fastSampled v2 m2 b2, takeLabels_fastTick_x hf hi ho hx happ1 (hby.symm ▸ hy), hread1,
    rfl, fun i => hother1 _ (hxy _ i).symm, hby, takeLabels_fastTick_y hf hi ho happ2, (hother2 _ (hxy _ _)).trans hread1,
    hread2, fun a hax hay => (hother2 a hay).trans (hother1 a hax), ?_, ?_, rfl⟩
  · change (b2.get .x).len.toNat = _
    rw [hbuf2 .x (by decide), hlen1, len_succ_toNat hltx (hinv.cfg.cap_le .x)]
  · change (b2.get .y).len.toNat = _
    rw [hlen2, len_succ_toNat hlty (hinv.cfg.cap_le .y)]

/-! ### One trigger's conversion -/

theorem BySource.set_eq_self {α : Type} {b : BySource α} {src : Source} {v : α} (h : b.get src = v) : b.set src v = b := by
  rw [← h, BySource.set_get]

theorem ByTrigger.set_eq_self {α : Type} {b : ByTrigger α} {c : TrigChannel} {v : α} (h : b.get c = v) : b.set c v = b := by
  rw [← h, ByTrigger.set_get]

/-- With the front-end free no trigger is waiting for its conversion (invariant 4). -/
theorem State.Inv.tst_idle {s : State} (h : s.Inv) (ho : s.owner = .none) (c : TrigChannel) : s.tst.get c = .idle := by
  rw [TrigState.eq_idle_iff]
  intro htrig
  have hown := (h.trig_owner c).mpr htrig
  cases c <;> simp [ho, trigOwner] at hown

/-- With the front-end free no completion is pending (invariant 6). -/
theorem State.Inv.done_not_pending {s : State} (h : s.Inv) (ho : s.owner = .none) (c : TrigChannel) :
    s.pend.get (doneSource c) = false := by
  refine Bool.eq_false_iff.mpr fun hp => ?_
  have hown := (h.done_pending c hp).1
  cases c <;> simp [ho, trigOwner] at hown

/-- The four labels of a trigger's cycle (R92). -/
theorem trigRun_expand (c : TrigChannel) (v : Sample) : (Pseudo.trigRun c v).expand =
    [.evTriggerTick c, .dispatch (trigSource c), .evAfeDone v, .dispatch (doneSource c)] := by
  cases c <;> rfl

/-- The state after a whole trigger cycle from a free front-end, with `m` and `b` what its append left (R205). -/
def State.trigCycled (c : TrigChannel) (v : Sample) (m : Memory) (b : ByChannel Buffer) (s : State) : State :=
  { s with
    mem := m, buf := b, pend := s.pend.set (trigSource c) false
    afe := ⟨chselOf (trigBuffer c), s.cfg.refTrig.get c, true, false, v⟩ }

/-- The cycle's last handler undoes the trigger's hold on the front-end, its state and its completion latch. -/
theorem State.trigFreed_trigDone_trigStarted {c : TrigChannel} {s : State} (v : Sample) (m : Memory)
    (b : ByChannel Buffer) (ho : s.owner = .none) (ht : s.tst.get c = .idle) (hd : s.pend.get (doneSource c) = false) :
    ((s.trigStarted c).trigDone c v).trigFreed c m b = s.trigCycled c v m b := by
  have hne : doneSource c ≠ trigSource c := by cases c <;> decide
  have hpend : (s.pend.set (trigSource c) false).set (doneSource c) false = s.pend.set (trigSource c) false :=
    BySource.set_eq_self ((BySource.get_set_ne _ _ hne).trans hd)
  simp [State.trigFreed, State.trigDone, State.trigStarted, State.trigCycled, ho, hpend, ByTrigger.set_eq_self ht]

/-- The cycle's four labels from a free front-end (R200, R195, R202). -/
theorem takeLabels_trigRun {c : TrigChannel} {v : Sample} {s : State} {m : Memory} {b : ByChannel Buffer} (hinv : s.Inv)
    (hf : s.fault = 0#8) (hi : s.fst = .idle) (ho : s.owner = .none) (happ : Appended (trigBuffer c) v s m b) :
    takeLabels (encodeAll (Pseudo.trigRun c v).expand) s = .next (s.trigCycled c v m b) := by
  have htick : exec (.evTriggerTick c) s = .next (latch (trigSource c) s) := exec_of_effect hf (.triggerTick c s)
  have hstart : exec (.dispatch (trigSource c)) (latch (trigSource c) s) = .next (s.trigStarted c) := by
    rw [exec_dispatch_trigSource (s := latch (trigSource c) s) hf (BySource.get_set_same s.pend _ true)
      (admitted_of_idle _ hi) ho]
    simp [State.trigStarted]
  have hdone : exec (.evAfeDone v) (s.trigStarted c) = .next ((s.trigStarted c).trigDone c v) :=
    exec_evAfeDone_trigOwner (s := s.trigStarted c) v hf rfl rfl
  have hfree : exec (.dispatch (doneSource c)) ((s.trigStarted c).trigDone c v) = .next (s.trigCycled c v m b) := by
    rw [← State.trigFreed_trigDone_trigStarted v m b ho (hinv.tst_idle ho c) (hinv.done_not_pending ho c)]
    exact exec_dispatch_doneSource (s := (s.trigStarted c).trigDone c v) hf (BySource.get_set_same _ _ true)
      (admitted_of_idle _ hi) happ
  rw [trigRun_expand]
  exact takeLabels_encodeAll_cons rfl htick (takeLabels_encodeAll_cons rfl hstart
    (takeLabels_encodeAll_cons rfl hdone (takeLabels_encodeAll_cons rfl hfree rfl)))

/-- Settles O36: the state after the cycle is `takeLabels_trigRun`'s, and `exists_appended` says what its append leaves. -/
theorem aTriggerCycleStoresOrDropsItsResult : Obligations.ATriggerCycleStoresOrDropsItsResult := by
  intro c ch src v s hmem hinv hf hi ho
  have hnames : ch = trigBuffer c ∧ src = trigSource c := by
    simp only [List.mem_cons, List.not_mem_nil, or_false, Prod.mk.injEq] at hmem
    rcases hmem with ⟨rfl, rfl, rfl⟩ | ⟨rfl, rfl, rfl⟩ <;> exact ⟨rfl, rfl⟩
  obtain ⟨rfl, rfl⟩ := hnames
  obtain ⟨m, b, happ, hfull, hstored⟩ := exists_appended v hinv.mem.wf (hinv.full_or_len_lt (trigBuffer c))
  refine ⟨s.trigCycled c v m b, takeLabels_trigRun hinv hf hi ho happ, rfl, hfull, fun hroom => ?_⟩
  obtain ⟨hread, hother, hlen, -, hbuf⟩ := hstored hroom
  refine ⟨hread, hother, ?_, hbuf⟩
  change (b.get _).len.toNat = _
  rw [hlen, len_succ_toNat ((hinv.buf _).len_lt hroom) (hinv.cfg.cap_le _)]

end Sys2Proof.Machine
end

section
/-! The host commands: when they are enabled, what each reads, resets or clears, and what all of them leave alone
(R230 to R238). -/

namespace Sys2Proof.Machine

/-! ### Enabling -/

/-- Past its enabling test, a host command answers a next state or a fault, never a block (R230, R231). -/
theorem exec_host {i : Instr} (hc : i.labelClass = .host) (s : State) :
    ∃ o : Result, (∀ r, o ≠ .refused r) ∧ exec i s = ifHostEnabled s o := by
  cases i with
  | hcReadSample =>
    refine ⟨_, fun r => ?_, rfl⟩
    split
    · simp
    · exact raiseFault_ne_refused _ _ _ r
  | hcReadLength | hcReadCapacity | hcReadStatus | hcReadCalendar | hcResetBuffer | hcClearFlag =>
    exact ⟨_, fun _ => by simp, rfl⟩
  | _ => cases hc

/-- The enabling test blocks exactly after a fault and in the busy-wait (R230, R280). -/
theorem ifHostEnabled_refused_iff {s : State} {o : Result} (ho : ∀ r, o ≠ .refused r) :
    (∃ r, ifHostEnabled s o = .refused r) ↔ ¬ (s.fault = 0#8 ∧ s.fst = .idle) := by
  by_cases hf : s.fault = 0#8
  · by_cases hi : s.fst = .idle
    · simp [ifHostEnabled_of_enabled hf hi, ho, hf, hi]
    · simp [ifHostEnabled_of_wait hf hi, hi]
  · simp [ifHostEnabled, ifLive_of_faulted hf, hf]

/-- Settles O48: the enabling test is the only part of a host command that can block (`exec_host`). -/
theorem hostCommandsAreBlockedExactlyInFaultOrBusyWait :
    Obligations.HostCommandsAreBlockedExactlyInFaultOrBusyWait := by
  intro i s hc
  obtain ⟨o, ho, hexec⟩ := exec_host hc s
  rw [hexec]
  exact ifHostEnabled_refused_iff ho

/-! ### The reads -/

/-- Settles O43: below the capacity the outcome is `Effect.sampleRead`'s, at or above it the fault's. -/
theorem readSampleReadsBelowCapacityAndFaultsAbove : Obligations.ReadSampleReadsBelowCapacityAndFaultsAbove := by
  intro ch idx s hf
  refine ⟨rfl, fun hi hl => exec_of_effect hf (.sampleRead ch idx s hi hl), fun hi hl => ?_, fun hw => ?_⟩
  · exact (ifHostEnabled_of_enabled hf hi _).trans (if_neg (Nat.not_lt.mpr hl))
  · exact ifHostEnabled_of_wait hf hw _

/-- Settles O44: the next states are those of `Effect`'s reads; a capacity of R10 fits `hrd`, and so does a byte. -/
theorem lengthCapacityAndCalendarReadsWriteOnlyHrd : Obligations.LengthCapacityAndCalendarReadsWriteOnlyHrd := by
  intro s hf hi
  refine ⟨fun ch => ⟨rfl, exec_of_effect hf (.lengthRead ch s hi)⟩,
    fun ch => ⟨rfl, _, exec_of_effect hf (.capacityRead ch s hi), rfl, fun hcap => ?_⟩,
    fun snap fld => ⟨?_, _, exec_of_effect hf (.calendarRead snap fld s hi), rfl, ?_⟩⟩
  · exact Nat.mod_eq_of_lt (Nat.lt_succ_of_le hcap)
  · cases snap <;> cases fld <;> rfl
  · have byte (b : Byte) : (b.setWidth 16).toNat = b.toNat := BitVec.toNat_setWidth_of_le (by decide)
    cases snap <;> cases fld
    case prev.year | cur.year => rfl
    all_goals exact byte _

/-! ### The reset and the clear -/

/-- Settles O46: the next state is `Effect.bufferReset`'s. -/
theorem resetBufferClearsLengthAndFullOnly : Obligations.ResetBufferClearsLengthAndFullOnly := by
  intro ch s hf hi
  exact ⟨rfl, _, exec_of_effect hf (.bufferReset ch s hi), rfl, by simp, by simp,
    fun _ hd => ByChannel.get_set_ne _ _ hd, fun _ => rfl⟩

/-- Settles O47: each flag has its own case of `Effect`. -/
theorem clearFlagClearsTheNamedFlagOnly : Obligations.ClearFlagClearsTheNamedFlagOnly := by
  intro s hf hi
  exact ⟨fun _ => rfl, exec_of_effect hf (.midnightCleared s hi), exec_of_effect hf (.waterCleared s hi),
    exec_of_effect hf (.netCleared s hi)⟩

/-! ### What no host command touches -/

/-- A host command reads into `hrd`, empties a buffer, or clears `midnight` or a classifier's flag (R238). -/
theorem Effect.host_cases {i : Instr} {s t : State} (h : Effect i s t) (hc : i.labelClass = .host) :
    (∃ v, t = hostRead v s) ∨ (∃ ch, t = { s with buf := s.buf.set ch ⟨0, false⟩ }) ∨
    t = { s with midnight := false } ∨ (∃ k, t = { s with cls := s.cls.set k { s.cls.get k with active := false } }) := by
  cases h with
  | sampleRead | lengthRead | capacityRead | statusRead | calendarRead => exact .inl ⟨_, rfl⟩
  | bufferReset ch => exact .inr (.inl ⟨ch, rfl⟩)
  | midnightCleared => exact .inr (.inr (.inl rfl))
  | waterCleared => exact .inr (.inr (.inr ⟨.water, rfl⟩))
  | netCleared => exact .inr (.inr (.inr ⟨.net, rfl⟩))
  | _ => cases hc

/-- Settles O49: each of the commands `Effect.host_cases` names leaves all but its own field, and sets no flag. -/
theorem theHostOnlyReadsClearsAndResets : Obligations.TheHostOnlyReadsClearsAndResets := by
  intro i s t hc h
  rcases (exec_next h).2.host_cases hc with ⟨v, rfl⟩ | ⟨ch, rfl⟩ | rfl | ⟨j, rfl⟩
  · exact ⟨rfl, id, fun _ => ⟨rfl, id⟩, fun _ => .inl rfl, by simp⟩
  · refine ⟨rfl, id, fun _ => ⟨rfl, id⟩, fun d => ?_, fun _ => rfl⟩
    by_cases hd : d = ch
    · exact .inr (hd ▸ ByChannel.get_set_same _ _ _)
    · exact .inl (ByChannel.get_set_ne _ _ hd)
  · exact ⟨rfl, nofun, fun _ => ⟨rfl, id⟩, fun _ => .inl rfl, fun _ => rfl⟩
  · refine ⟨rfl, id, fun k => ?_, fun _ => .inl rfl, fun _ => rfl⟩
    by_cases hk : k = j
    · simp [hk]
    · simp [ByClassifier.get_set_ne _ _ hk]

end Sys2Proof.Machine
end

section
/-! The fault outcome: what can raise one, what it records, and that nothing runs after it (R280, R281). -/

namespace Sys2Proof.Machine

/-! ### Nothing runs after a fault -/

/-- Every label asks for `fault = 0` first (R280). -/
theorem exec_eq_ifLive (i : Instr) (s : State) : ∃ o, exec i s = ifLive s o := by
  cases i <;> exact ⟨_, rfl⟩

theorem takeLabel_of_faulted {s : State} (h : s.fault ≠ 0#8) (w : Word) : takeLabel w s = .refused .blockedFaulted := by
  unfold takeLabel
  split
  · next i _ =>
    obtain ⟨o, ho⟩ := exec_eq_ifLive i s
    rw [ho, ifLive_of_faulted h]
  · exact ifLive_of_faulted h _

/-! ### The causes of a fault -/

/-- The handlers that need the analog front-end (R191). -/
def NeedsFrontEnd (src : Source) : Prop := src = .ft ∨ src = .bt ∨ src = .dt

/-- The faults of a label `i` in state `s`, each with its cause and with the state that it records (R280, R281). -/
inductive FaultCause : Instr → State → Fault → Prop
  | conflict {src s} : NeedsFrontEnd src → s.owner ≠ .none →
      FaultCause (.dispatch src) s (.afeConflict (s.recordFault .afeConflict (encode (.dispatch src))))
  | indexTooLarge {ch idx s} : s.cfg.cap.get ch ≤ idx.toNat →
      FaultCause (.hcReadSample ch idx) s (.badIndex (s.recordFault .badIndex (encode (.hcReadSample ch idx))))
  | outOfStorage {i s ch} : OutOfStorage s ch → FaultCause i s (.storageOverrun ch)

/-- The only code that a handler raises is that of the held front-end. -/
theorem runHandler_raise {src : Source} {s : State} {c : FaultCode} (h : runHandler src s = .error (.raise c)) :
    c = .afeConflict ∧ NeedsFrontEnd src ∧ s.owner ≠ .none := by
  cases src with
  | pc | st => cases h
  | ft =>
    obtain ⟨-, ho, hc⟩ := handlerFT_eq_error.mp h
    cases hc
    exact ⟨rfl, .inl rfl, ho⟩
  | bt =>
    obtain ⟨ho, hc⟩ := handlerTrig_eq_error.mp h
    cases hc
    exact ⟨rfl, .inr (.inl rfl), ho⟩
  | dt =>
    obtain ⟨ho, hc⟩ := handlerTrig_eq_error.mp h
    cases hc
    exact ⟨rfl, .inr (.inr rfl), ho⟩
  | bc | dc => cases (handlerDone_eq_error h).1

theorem routeDone_ne_raise (s : State) (c : FaultCode) : routeDone s ≠ .error (.raise c) := by
  intro h
  obtain ⟨_, hc, -⟩ := ftContinue_eq_error (routeDone_eq_error h).2
  cases hc

/-- Every fault of a label has one of the causes. An append's is `exec_overrun`'s. -/
theorem exec_fault {i : Instr} {s : State} {r : Fault} (h : exec i s = .fault r) : FaultCause i s r := by
  cases i with
  | dispatch src =>
    obtain ⟨-, -, -, hd⟩ := execDispatch_eq_fault.mp h
    rcases finish_eq_fault.mp hd with ⟨c, hc, hr⟩ | ⟨ch, -, rfl⟩
    · obtain ⟨rfl, hsrc, ho⟩ := runHandler_raise hc
      cases hr
      exact .conflict hsrc ho
    · exact .outOfStorage (exec_overrun h)
  | evAfeDone v =>
    obtain ⟨-, -, hd⟩ := execEvAfeDone_eq_fault.mp h
    rcases finish_eq_fault.mp hd with ⟨c, hc, -⟩ | ⟨ch, -, rfl⟩
    · exact absurd hc (routeDone_ne_raise _ c)
    · exact .outOfStorage (exec_overrun h)
  | hcReadSample ch idx =>
    obtain ⟨-, -, hr⟩ := ifHostEnabled_eq_fault.mp h
    split at hr
    · cases hr
    · next hl =>
      cases hr
      exact .indexTooLarge (Nat.le_of_not_lt hl)
  | evPinLevel | evPinChange | evTimerTick | evFastTick | evSecondTick | evRtcSet | evTriggerTick =>
    cases (ifLive_eq_fault.mp h).2
  | hcReadLength | hcReadCapacity | hcReadStatus | hcReadCalendar | hcResetBuffer | hcClearFlag =>
    cases (ifHostEnabled_eq_fault.mp h).2.2

/-- Settles O11: the three causes of `exec_fault`. -/
theorem faultsHaveOnlyTheirOwnCauses : Obligations.FaultsHaveOnlyTheirOwnCauses := by
  intro i s r h
  cases exec_fault h with
  | conflict hsrc ho =>
    refine .inl ⟨⟨_, rfl⟩, ?_, ho⟩
    rcases hsrc with rfl | rfl | rfl <;> simp
  | indexTooLarge hl => exact .inr (.inl ⟨⟨_, rfl⟩, _, _, rfl, hl⟩)
  | outOfStorage hout => exact .inr (.inr ⟨_, rfl, hout⟩)

/-! ### What a fault records -/

/-- A word's fault is a code of R281, raised for that word from the state before it, or an append's. -/
theorem takeLabel_fault {w : Word} {s : State} {r : Fault} (h : takeLabel w s = .fault r) :
    (∃ c, raiseFault c w s = .fault r) ∨ ∃ ch, r = .storageOverrun ch := by
  cases hd : decode w with
  | error e =>
    simp only [takeLabel, hd, ifLive_eq_fault] at h
    exact .inl ⟨_, h.2⟩
  | ok i =>
    obtain ⟨-, rfl⟩ := encodeOfDecodeGivesTheWordBack w i hd
    cases exec_fault (takeLabel_of_decode hd s ▸ h) with
    | conflict => exact .inl ⟨.afeConflict, rfl⟩
    | indexTooLarge => exact .inl ⟨.badIndex, rfl⟩
    | outOfStorage => exact .inr ⟨_, rfl⟩

/-- Settles O10: `takeLabel_fault` for the recorded state, `takeLabel_of_faulted` for what follows. -/
theorem faultOutcomeIsPreciseAndFinal : Obligations.FaultOutcomeIsPreciseAndFinal := by
  refine ⟨fun w s t h => ?_, fun w s t h => ?_, fun w s t h => ?_,
    fun w s hf => ⟨takeLabel_of_faulted hf w, fun hgood => hf hgood.fault⟩⟩
  all_goals
    rcases takeLabel_fault h with ⟨c, hc⟩ | ⟨ch, hch⟩
    · cases c <;> cases hc
      rfl
    · cases hch

end Sys2Proof.Machine
end

section
/-! The event model: when DISPATCH is blocked, raises in either order, and the handlers of disjoint state in either order
(R264 to R270). -/

namespace Sys2Proof.Machine

/-! ### When DISPATCH is blocked -/

/-- A live DISPATCH is blocked by its two tests only: a handler gives a next state or a fault (R264). -/
theorem execDispatch_refused_iff {src : Source} {s : State} (hf : s.fault = 0#8) :
    (∃ r, execDispatch src s = .refused r) ↔ s.pend.get src = false ∨ admitted src s = false := by
  by_cases hp : s.pend.get src = false
  · simp [execDispatch, ifLive_of_live hf, hp]
  · by_cases ha : admitted src s = false
    · simp [execDispatch, ifLive_of_live hf, hp, ha]
    · simp [execDispatch, ifLive_of_live hf, hp, ha, finish_ne_refused]

/-- A source is deferred in a busy-wait, if its priority is not above FT's (R265). -/
theorem admitted_eq_false_iff (src : Source) (s : State) :
    admitted src s = false ↔ s.fst ≠ .idle ∧ s.cfg.prio.get src ≤ s.cfg.prio.get .ft := by
  rw [← Bool.not_eq_true, admitted_iff, not_or, Nat.not_lt]
  exact Iff.rfl

/-- With R10's priorities, neither PC nor FT is above FT. -/
theorem Config.Ok.prio_le_ft {c : Config} (h : c.Ok) {src : Source} (hsrc : src = .pc ∨ src = .ft) :
    c.prio.get src ≤ c.prio.get .ft := by
  rcases hsrc with rfl | rfl
  · exact Nat.le_of_lt (h.pc_lowest .ft (by decide))
  · exact Nat.le_refl _

/-- Settles O20: the two tests of `execDispatch_refused_iff`, the second one as `admitted_eq_false_iff` states it. -/
theorem dispatchIsBlockedExactlyWhenNotPendingOrDeferred :
    Obligations.DispatchIsBlockedExactlyWhenNotPendingOrDeferred := by
  intro src s hf
  have hblocked : (∃ r, exec (.dispatch src) s = .refused r) ↔
      (s.pend.get src = false ∨ (s.fst ≠ .idle ∧ s.cfg.prio.get src ≤ s.cfg.prio.get .ft)) :=
    (execDispatch_refused_iff hf).trans (or_congr_right (admitted_eq_false_iff src s))
  exact ⟨hblocked, fun hok hw hsrc => hblocked.mpr (.inr ⟨hw, Config.Ok.prio_le_ft hok hsrc⟩)⟩

/-! ### Two raises -/

theorem BySource.set_comm_of_same {α : Type} (b : BySource α) (p q : Source) (v : α) :
    (b.set p v).set q v = (b.set q v).set p v := by
  cases p <;> cases q <;> rfl

theorem latch_comm (p q : Source) (s : State) : latch q (latch p s) = latch p (latch q s) := by
  simp only [latch, BySource.set_comm_of_same s.pend p q]

theorem unlatch_comm (p q : Source) (s : State) : unlatch q (unlatch p s) = unlatch p (unlatch q s) := by
  simp only [unlatch, BySource.set_comm_of_same s.pend p q]

/-- The labels that only raise a latch (R270). -/
def RaisesOnly (i : Instr) : Prop := i = .evPinChange ∨ i = .evFastTick ∨ i = .evSecondTick ∨ ∃ c, i = .evTriggerTick c

theorem RaisesOnly.latches {i : Instr} (h : RaisesOnly i) : i.wf = true ∧ ∃ src, ∀ s, Effect i s (latch src s) := by
  rcases h with rfl | rfl | rfl | ⟨c, rfl⟩
  · exact ⟨rfl, .pc, .pinNotified⟩
  · exact ⟨rfl, .ft, .fastTick⟩
  · exact ⟨rfl, .st, .secondTick⟩
  · exact ⟨rfl, trigSource c, .triggerTick c⟩

/-- Settles O53: from a live state both orders set the same two latches, and a faulted one blocks both. -/
theorem raisesCommute : Obligations.RaisesCommute := by
  intro i j s hi hj
  obtain ⟨hiwf, p, hp⟩ := RaisesOnly.latches hi
  obtain ⟨hjwf, q, hq⟩ := RaisesOnly.latches hj
  by_cases hf : s.fault = 0#8
  · have hij : takeLabels (encodeAll [i, j]) s = .next (latch q (latch p s)) :=
      takeLabels_encodeAll_cons hiwf (exec_of_effect hf (hp s))
        (takeLabels_encodeAll_cons hjwf (exec_of_effect hf (hq _)) rfl)
    have hji : takeLabels (encodeAll [j, i]) s = .next (latch p (latch q s)) :=
      takeLabels_encodeAll_cons hjwf (exec_of_effect hf (hq s))
        (takeLabels_encodeAll_cons hiwf (exec_of_effect hf (hp _)) rfl)
    rw [hij, hji, latch_comm]
  · simp only [encodeAll, List.map_cons, takeLabels, takeLabel_of_faulted hf]

/-! ### Handlers with disjoint state -/

/-- The same state with the parts that the BT, DT, BC and DC handlers write. -/
def State.withAnalog (m : Memory) (b : ByChannel Buffer) (t : ByTrigger TrigState) (o : Owner) (a : Afe) (s : State) :
    State :=
  { s with mem := m, buf := b, tst := t, owner := o, afe := a }

/-- `f` neither reads nor writes what the BT, DT, BC and DC handlers write, and keeps the parameters (R266). -/
structure AnalogApart (f : State → State) : Prop where
  cfg : ∀ s, (f s).cfg = s.cfg
  withAnalog : ∀ m b t o a s, f (s.withAnalog m b t o a) = (f s).withAnalog m b t o a

theorem analogApart_unlatch (src : Source) : AnalogApart (unlatch src) := ⟨fun _ => rfl, fun _ _ _ _ _ _ => rfl⟩

theorem analogApart_handlerST : AnalogApart handlerST := ⟨fun _ => rfl, fun _ _ _ _ _ _ => rfl⟩

theorem analogApart_handlerPC : AnalogApart handlerPC :=
  ⟨fun s => by rw [handlerPC_eq], fun _ _ _ _ _ s => by rw [handlerPC_eq, handlerPC_eq]; rfl⟩

section
variable {f : State → State} (hf : AnalogApart f)
include hf

theorem AnalogApart.eq_withAnalog (s : State) : f s = (f s).withAnalog s.mem s.buf s.tst s.owner s.afe :=
  hf.withAnalog s.mem s.buf s.tst s.owner s.afe s

theorem AnalogApart.buf_eq (s : State) : (f s).buf = s.buf := by rw [hf.eq_withAnalog s]; rfl

theorem AnalogApart.owner_eq (s : State) : (f s).owner = s.owner := by rw [hf.eq_withAnalog s]; rfl

theorem AnalogApart.afe_eq (s : State) : (f s).afe = s.afe := by rw [hf.eq_withAnalog s]; rfl

theorem AnalogApart.storeSample_comm (ch : Channel) (v : Sample) (s : State) :
    storeSample ch v (f s) = f (storeSample ch v s) := by
  refine Eq.trans ?_ (hf.withAnalog _ _ _ _ _ s).symm
  rw [hf.eq_withAnalog s]
  simp only [storeSample, State.withAnalog, hf.cfg]
  rfl

theorem AnalogApart.append_comm (ch : Channel) (v : Sample) (s : State) :
    append ch v (f s) = (append ch v s).map f := by
  have hb := hf.buf_eq s
  have hc := hf.cfg s
  rcases append_cases ch v s with ⟨hfull, he⟩ | ⟨hfull, hl, he⟩ | ⟨hfull, hl, he⟩ <;> rw [he]
  · exact append_full (by rw [hb, hfull]) v
  · rw [append_room (by rw [hb, hfull]) (by rwa [hb, hc]), hf.storeSample_comm]
    rfl
  · exact append_overrun (by rw [hb, hfull]) (by rw [hb, hc]; omega) v

theorem AnalogApart.handlerTrig_comm (c : TrigChannel) (s : State) :
    handlerTrig c (f s) = (handlerTrig c s).map f := by
  by_cases ho : s.owner = .none
  · rw [handlerTrig_free c ho, handlerTrig_free c ((hf.owner_eq s).trans ho)]
    refine congrArg Except.ok (Eq.trans ?_ (hf.withAnalog _ _ _ _ _ s).symm)
    rw [hf.eq_withAnalog s]
    simp only [State.withAnalog, hf.cfg]
    rfl
  · rw [handlerTrig_held c ho, handlerTrig_held c (by rwa [hf.owner_eq])]
    rfl

theorem AnalogApart.handlerDone_comm (c : TrigChannel) (s : State) :
    handlerDone c (f s) = (handlerDone c s).map f := by
  unfold handlerDone
  rw [hf.afe_eq, hf.append_comm]
  cases append (trigBuffer c) s.afe.res s with
  | error a => rfl
  | ok t =>
    refine congrArg Except.ok (Eq.trans ?_ (hf.withAnalog _ _ _ _ _ t).symm)
    rw [hf.eq_withAnalog t]
    rfl

end

theorem handlerPC_unlatch (q : Source) (s : State) : handlerPC (unlatch q s) = unlatch q (handlerPC s) := by
  rw [handlerPC_eq, handlerPC_eq]
  rfl

theorem handlerPC_handlerST (s : State) : handlerPC (handlerST s) = handlerST (handlerPC s) := by
  rw [handlerPC_eq, handlerPC_eq]
  rfl

/-- A handler other than FT's commutes with what is apart from the front-end and commutes with PC's and ST's. -/
theorem AnalogApart.runHandler_comm {f : State → State} (hf : AnalogApart f)
    (hpc : ∀ s, handlerPC (f s) = f (handlerPC s)) (hst : ∀ s, handlerST (f s) = f (handlerST s)) {src : Source}
    (hsrc : src ≠ .ft) (s : State) : runHandler src (f s) = (runHandler src s).map f := by
  cases src with
  | pc => exact congrArg Except.ok (hpc s)
  | st => exact congrArg Except.ok (hst s)
  | ft => exact absurd rfl hsrc
  | bt => exact hf.handlerTrig_comm .bat s
  | dt => exact hf.handlerTrig_comm .depth s
  | bc => exact hf.handlerDone_comm .bat s
  | dc => exact hf.handlerDone_comm .depth s

theorem runHandler_unlatch {src : Source} (hsrc : src ≠ .ft) (q : Source) (s : State) :
    runHandler src (unlatch q s) = (runHandler src s).map (unlatch q) :=
  (analogApart_unlatch q).runHandler_comm (handlerPC_unlatch q) (fun _ => rfl) hsrc s

/-- R266 for the handlers alone: PC's and ST's write nothing that another but FT's reads or writes. -/
theorem runHandler_bind_comm {a b : Source} (ha : a = .pc ∨ a = .st) (hb : b ≠ .ft) (s : State) :
    (runHandler a s).bind (runHandler b) = (runHandler b s).bind (runHandler a) := by
  rcases ha with rfl | rfl
  · have h : runHandler b (handlerPC s) = (runHandler b s).map handlerPC :=
      analogApart_handlerPC.runHandler_comm (fun _ => rfl) (fun t => (handlerPC_handlerST t).symm) hb s
    refine Eq.trans h ?_
    cases runHandler b s <;> rfl
  · have h : runHandler b (handlerST s) = (runHandler b s).map handlerST :=
      analogApart_handlerST.runHandler_comm handlerPC_handlerST (fun _ => rfl) hb s
    refine Eq.trans h ?_
    cases runHandler b s <;> rfl

/-! ### Two DISPATCHes -/

theorem exec_dispatch_eq_next_of_idle {src : Source} {s t : State} (hi : s.fst = .idle) :
    exec (.dispatch src) s = .next t ↔
      s.fault = 0#8 ∧ s.pend.get src = true ∧ runHandler src (unlatch src s) = .ok t :=
  execDispatch_eq_next.trans (by simp [admitted_of_idle src hi])

/-- A handler other than FT's starts no busy-wait, and clears no latch but its own (R196, R264). -/
theorem dispatch_frame {src : Source} {s t : State} (hsrc : src ≠ .ft) (h : Effect (.dispatch src) s t) :
    t.fst = s.fst ∧ t.pend = s.pend.set src false := by
  cases h with
  | fastHandlerX | fastHandlerY | fastHandlerFull => exact absurd rfl hsrc
  | _ => exact ⟨rfl, rfl⟩

theorem takeLabels_encodeAll_pair {i j : Instr} {s t : State} (hi : i.wf = true) (hj : j.wf = true) :
    takeLabels (encodeAll [i, j]) s = .next t ↔ ∃ u, exec i s = .next u ∧ exec j u = .next t := by
  have hlast (u : State) : takeLabels [encode j] u = .next t ↔ exec j u = .next t := by
    rw [takeLabels_cons_eq_next, takeLabel_encode hj]
    simp [takeLabels]
  rw [encodeAll, List.map_cons, takeLabels_cons_eq_next, takeLabel_encode hi]
  exact exists_congr fun u => and_congr_right fun _ => hlast u

/-- Outside the busy-wait two DISPATCHes are their two handlers, after both latches are cleared. -/
theorem takeLabels_dispatch_pair {a b : Source} {s t : State} (ha : a ≠ .ft) (hab : b ≠ a) (hi : s.fst = .idle) :
    takeLabels (encodeAll [.dispatch a, .dispatch b]) s = .next t ↔
      s.fault = 0#8 ∧ s.pend.get a = true ∧ s.pend.get b = true ∧
        (runHandler a (unlatch b (unlatch a s))).bind (runHandler b) = .ok t := by
  rw [takeLabels_encodeAll_pair rfl rfl, runHandler_unlatch ha]
  constructor
  · rintro ⟨u, hau, hbt⟩
    obtain ⟨hfst, hpend⟩ := dispatch_frame ha (exec_next hau).2
    obtain ⟨hf, hpa, hu⟩ := (exec_dispatch_eq_next_of_idle hi).mp hau
    obtain ⟨-, hpb, ht⟩ := (exec_dispatch_eq_next_of_idle (hfst.trans hi)).mp hbt
    rw [hpend, BySource.get_set_ne _ _ hab] at hpb
    rw [hu]
    exact ⟨hf, hpa, hpb, ht⟩
  · rintro ⟨hf, hpa, hpb, hrun⟩
    cases hu : runHandler a (unlatch a s) with
    | error e =>
      rw [hu] at hrun
      cases hrun
    | ok u =>
      rw [hu] at hrun
      have hau : exec (.dispatch a) s = .next u := (exec_dispatch_eq_next_of_idle hi).mpr ⟨hf, hpa, hu⟩
      obtain ⟨hfst, hpend⟩ := dispatch_frame ha (exec_next hau).2
      refine ⟨u, hau, (exec_dispatch_eq_next_of_idle (hfst.trans hi)).mpr ⟨?_, ?_, hrun⟩⟩
      · exact (exec_next hau).2.fault_eq.trans hf
      · rw [hpend, BySource.get_set_ne _ _ hab, hpb]

/-- Settles O54: in either order both latches are cleared and both handlers run, and these commute. -/
theorem disjointHandlersGiveTheSameStateInEitherOrder : Obligations.DisjointHandlersGiveTheSameStateInEitherOrder := by
  intro a b s t ha hba hb hi
  have haft : a ≠ .ft := by rcases ha with rfl | rfl <;> decide
  rw [takeLabels_dispatch_pair haft hba hi, takeLabels_dispatch_pair hb hba.symm hi, unlatch_comm a b,
    runHandler_bind_comm ha hb, and_left_comm (a := s.pend.get a = true)]

end Sys2Proof.Machine
end

section
/-! The parameters under every label, the labels blocked at reset, and the way to a good end (R301, R303, R306). -/

namespace Sys2Proof.Machine

/-! ### The parameters -/

/-- Settles O14: a label that answers a next state has an `Effect`, and none of them writes `cfg`. -/
theorem noLabelChangesAParameter : Obligations.NoLabelChangesAParameter := by
  intro w s t h
  obtain ⟨i, -, -, he⟩ := takeLabel_eq_next.mp h
  exact he.cfg_eq

/-! ### The labels blocked at reset -/

/-- A label of the environment other than EV_AFE_DONE completes in every non-faulted state (R156, R157, R175, R263). -/
theorem exec_env_completes {i : Instr} {s : State} (hf : s.fault = 0#8) (hc : i.labelClass = .env)
    (hd : ∀ v, i ≠ .evAfeDone v) : ∃ t, exec i s = .next t := by
  cases i with
  | evAfeDone v => exact absurd rfl (hd v)
  | evPinLevel | evPinChange | evTimerTick | evFastTick | evSecondTick | evRtcSet | evTriggerTick =>
    exact ⟨_, ifLive_of_live hf _⟩
  | _ => cases hc

/-- Settles O56: at reset nothing is pending and no conversion is in flight, which blocks the two named kinds; the host's
commands are enabled (O48), and the environment's other labels complete. -/
theorem resetBlocksExactlyDispatchAndCompletion : Obligations.ResetBlocksExactlyDispatchAndCompletion := by
  intro cfg i
  by_cases hd : ∃ v, i = .evAfeDone v
  · obtain ⟨v, rfl⟩ := hd
    exact iff_of_true ⟨_, exec_evAfeDone_blocked v rfl rfl⟩ (.inr ⟨v, rfl⟩)
  cases hc : i.labelClass with
  | env =>
    obtain ⟨t, ht⟩ := exec_env_completes (s := State.resetWith cfg) rfl hc (not_exists.mp hd)
    simp [ht, hd]
  | host =>
    have hblocked := hostCommandsAreBlockedExactlyInFaultOrBusyWait i (State.resetWith cfg) hc
    exact iff_of_false (fun h => hblocked.mp h ⟨rfl, rfl⟩) (by simp [hd])
  | int =>
    cases i with
    | dispatch src =>
      have hidle : (State.resetWith cfg).pend.get src = false := by cases src <;> rfl
      exact iff_of_true ((execDispatch_refused_iff rfl).mpr (.inl hidle)) (.inl rfl)
    | _ => cases hc

/-! ### Runs of completions and DISPATCHes -/

/-- A non-faulted state that meets the invariants of R46. -/
structure State.Live (s : State) : Prop where
  inv : s.Inv
  fault : s.fault = 0#8

theorem State.Live.of_exec {i : Instr} {s t : State} (h : s.Live) (ht : exec i s = .next t) : t.Live :=
  have he := (exec_next ht).2
  ⟨he.inv h.inv, he.fault_eq.trans h.fault⟩

/-- The labels that bring the block to rest: the front-end's completions and the block's own DISPATCHes (R271). -/
def Settling (i : Instr) : Prop := (∃ src, i = .dispatch src) ∨ ∃ v, i = .evAfeDone v

theorem Settling.wf {i : Instr} (h : Settling i) : i.wf = true := by
  rcases h with ⟨src, rfl⟩ | ⟨v, rfl⟩ <;> rfl

/-- At most `n` settling labels lead from one state to another. -/
inductive Settles : Nat → State → State → Prop
  | rest {n s} : Settles n s s
  | label {n i s t u} : Settling i → exec i s = .next t → Settles n t u → Settles (n + 1) s u

theorem Settles.dispatch {n : Nat} {src : Source} {s t u : State} (h : exec (.dispatch src) s = .next t)
    (hu : Settles n t u) : Settles (n + 1) s u := .label (.inl ⟨src, rfl⟩) h hu

theorem Settles.completion {n : Nat} {v : Sample} {s t u : State} (h : exec (.evAfeDone v) s = .next t)
    (hu : Settles n t u) : Settles (n + 1) s u := .label (.inr ⟨v, rfl⟩) h hu

theorem Settles.mono {m n : Nat} {s t : State} (h : Settles m s t) (hmn : m ≤ n) : Settles n s t := by
  induction h generalizing n with
  | rest => exact .rest
  | label hi he _ ih =>
    obtain ⟨k, rfl⟩ := Nat.exists_eq_add_of_lt hmn
    exact .label hi he (ih (Nat.le_add_right _ _))

theorem Settles.trans {m n : Nat} {s t u : State} (h : Settles m s t) (hu : Settles n t u) : Settles (m + n) s u := by
  induction h with
  | rest => exact hu.mono (Nat.le_add_left _ _)
  | label hi he _ ih =>
    rw [Nat.add_right_comm]
    exact .label hi he (ih hu)

theorem Settles.live {n : Nat} {s t : State} (h : Settles n s t) (hs : s.Live) : t.Live := by
  induction h with
  | rest => exact hs
  | label _ he _ ih => exact ih (hs.of_exec he)

/-- Such labels are a run (R305). -/
theorem Settles.run {n : Nat} {s t : State} (h : Settles n s t) :
    ∃ is : List Instr, is.length ≤ n ∧ (∀ i ∈ is, Settling i) ∧ IsRun (encodeAll is) s t := by
  induction h with
  | rest => exact ⟨[], Nat.zero_le _, nofun, rfl⟩
  | label hi he _ ih =>
    obtain ⟨is, hlen, his, hrun⟩ := ih
    exact ⟨_ :: is, Nat.succ_le_succ hlen, List.forall_mem_cons.mpr ⟨hi, his⟩,
      takeLabels_encodeAll_cons hi.wf he hrun⟩

/-- No source that is clear in `s` is pending in `t`. -/
def NoneRaised (s t : State) : Prop := ∀ src, s.pend.get src = false → t.pend.get src = false

theorem NoneRaised.trans {s t u : State} (h : NoneRaised s t) (hu : NoneRaised t u) : NoneRaised s u :=
  fun src hs => hu src (h src hs)

theorem NoneRaised.of_pend_cleared {s t : State} {src : Source} (h : t.pend = s.pend.set src false) : NoneRaised s t := by
  intro p hp
  rw [h, BySource.get_set, hp, ite_self]

/-! ### Freeing the front-end -/

/-- Only the fast sampler's hold on the front-end is a busy-wait (invariant 3). -/
theorem State.Inv.idle_of_owner_ne {s : State} (h : s.Inv) (ho : s.owner ≠ .fast) : s.fst = .idle :=
  not_not.mp (mt h.fast_owner.mpr ho)

theorem State.Inv.exists_appended {s : State} (h : s.Inv) (ch : Channel) (v : Sample) : ∃ m b, Appended ch v s m b := by
  obtain ⟨m, b, happ, -⟩ := Machine.exists_appended v h.mem.wf (h.full_or_len_lt ch)
  exact ⟨m, b, happ⟩

/-- The completion of the y conversion frees the front-end (R196). -/
theorem State.Live.free_waitY {s : State} (h : s.Live) (ho : s.owner = .fast) (hy : s.fst ≠ .waitX) :
    ∃ t, Settles 1 s t ∧ t.owner = .none ∧ NoneRaised s t := by
  have hc : s.afe.conv = true := h.inv.wait_conv (h.inv.fast_owner.mp ho)
  obtain ⟨m, b, happ⟩ := h.inv.exists_appended .y 0
  exact ⟨_, .completion (exec_of_effect h.fault (.doneY 0 s m b hc ho hy happ)) .rest, rfl, fun _ => id⟩

/-- The completion of the x conversion frees the front-end, or that of the y conversion it starts does (R196). -/
theorem State.Live.free_fast {s : State} (h : s.Live) (ho : s.owner = .fast) :
    ∃ t, Settles 2 s t ∧ t.owner = .none ∧ NoneRaised s t := by
  by_cases hx : s.fst = .waitX
  · have hc : s.afe.conv = true := h.inv.wait_conv (h.inv.fast_owner.mp ho)
    obtain ⟨m, b, happ⟩ := h.inv.exists_appended .x 0
    cases hy : b.y.full with
    | true =>
      exact ⟨_, .completion (exec_of_effect h.fault (.doneXThenEnd 0 s m b hc ho hx happ hy)) .rest, rfl, fun _ => id⟩
    | false =>
      have hdone := exec_of_effect h.fault (.doneXThenY 0 s m b hc ho hx happ hy)
      obtain ⟨t, hst, hfree, hnone⟩ := (h.of_exec hdone).free_waitY ho nofun
      exact ⟨t, .completion hdone hst, hfree, hnone⟩
  · obtain ⟨t, hst, hfree⟩ := h.free_waitY ho hx
    exact ⟨t, hst.mono (by decide), hfree⟩

/-- A trigger's pending completion is admitted, and its handler frees the front-end (R202). -/
theorem State.Live.free_pending {s : State} {c : TrigChannel} (h : s.Live) (hp : s.pend.get (doneSource c) = true) :
    ∃ t, Settles 1 s t ∧ t.owner = .none ∧ t.pend = s.pend.set (doneSource c) false := by
  have hi : s.fst = .idle := h.inv.idle_of_owner_ne (by rw [(h.inv.done_pending c hp).1]; cases c <;> decide)
  obtain ⟨m, b, happ⟩ := h.inv.exists_appended (trigBuffer c) s.afe.res
  exact ⟨s.trigFreed c m b, .dispatch (exec_dispatch_doneSource h.fault hp (admitted_of_idle _ hi) happ) .rest, rfl, rfl⟩

/-- A trigger's conversion in flight completes first, where its completion is not pending already (invariant 6). -/
theorem State.Live.free_trig {s : State} {c : TrigChannel} (h : s.Live) (ho : s.owner = trigOwner c) :
    ∃ t, Settles 2 s t ∧ t.owner = .none ∧ NoneRaised s t := by
  cases hp : s.pend.get (doneSource c) with
  | true =>
    obtain ⟨t, hst, hfree, hpend⟩ := h.free_pending hp
    exact ⟨t, hst.mono (by decide), hfree, .of_pend_cleared hpend⟩
  | false =>
    have hc : s.afe.conv = true := by simpa [hp] using h.inv.trig_owes_one c ho
    have hdone := exec_evAfeDone_trigOwner 0 h.fault hc ho
    obtain ⟨t, hst, hfree, hpend⟩ := (h.of_exec hdone).free_pending (c := c) (BySource.get_set_same _ _ _)
    refine ⟨t, .completion hdone hst, hfree, .of_pend_cleared (src := doneSource c) ?_⟩
    rw [hpend, State.trigDone, BySource.set_set]

/-- Whoever holds the front-end gives it back within two labels. -/
theorem State.Live.free {s : State} (h : s.Live) : ∃ t, Settles 2 s t ∧ t.owner = .none ∧ NoneRaised s t := by
  cases ho : s.owner with
  | none => exact ⟨s, .rest, ho, fun _ => id⟩
  | fast => exact h.free_fast ho
  | bat => exact h.free_trig (c := .bat) ho
  | depth => exact h.free_trig (c := .depth) ho

/-! ### Clearing the latches -/

/-- With the front-end free, DISPATCH of a pending source completes, and leaves it free unless the handler is one that
needs it (R191). -/
theorem State.Live.dispatch {s : State} (h : s.Live) (ho : s.owner = .none) {src : Source}
    (hp : s.pend.get src = true) : ∃ t, exec (.dispatch src) s = .next t ∧ t.pend = s.pend.set src false ∧
      (NeedsFrontEnd src ∨ t.owner = .none) := by
  have hi : s.fst = .idle := h.inv.idle_of_owner_ne (by simp [ho])
  have ha : admitted src s = true := admitted_of_idle src hi
  cases src with
  | pc => exact ⟨_, exec_of_effect h.fault (.pinHandler s hp ha), rfl, .inr ho⟩
  | st => exact ⟨_, exec_of_effect h.fault (.secondHandler s hp ha), rfl, .inr ho⟩
  | ft =>
    cases hx : s.buf.x.full with
    | false => exact ⟨_, exec_dispatch_ft_x h.fault hp hi hx ho, rfl, .inl (.inl rfl)⟩
    | true =>
      cases hy : s.buf.y.full with
      | false => exact ⟨_, exec_of_effect h.fault (.fastHandlerY s hp ha hx hy ho), rfl, .inl (.inl rfl)⟩
      | true => exact ⟨_, exec_of_effect h.fault (.fastHandlerFull s hp ha hx hy), rfl, .inl (.inl rfl)⟩
  | bt => exact ⟨_, exec_dispatch_trigSource (c := .bat) h.fault hp ha ho, rfl, .inl (.inr (.inl rfl))⟩
  | dt => exact ⟨_, exec_dispatch_trigSource (c := .depth) h.fault hp ha ho, rfl, .inl (.inr (.inr rfl))⟩
  | bc => exact absurd hp (Bool.eq_false_iff.mp (h.inv.done_not_pending ho .bat))
  | dc => exact absurd hp (Bool.eq_false_iff.mp (h.inv.done_not_pending ho .depth))

/-- How many labels clear a source at most, from a free front-end to a free one: its DISPATCH, and two more where its
handler can take the front-end. -/
def settlingCost : Source → Nat
  | .pc | .st => 1
  | _ => 3

theorem settlingCost_pos (src : Source) : 1 ≤ settlingCost src := by cases src <;> decide

theorem NeedsFrontEnd.settlingCost_eq {src : Source} (h : NeedsFrontEnd src) : settlingCost src = 3 := by
  rcases h with rfl | rfl | rfl <;> rfl

/-- From a free front-end, one source can be cleared and the front-end freed again at that cost. -/
theorem State.Live.clear {s : State} (h : s.Live) (ho : s.owner = .none) (src : Source) :
    ∃ t, Settles (settlingCost src) s t ∧ t.owner = .none ∧ t.pend.get src = false ∧ NoneRaised s t := by
  cases hp : s.pend.get src with
  | false => exact ⟨s, .rest, ho, hp, fun _ => id⟩
  | true =>
    obtain ⟨t, ht, hpend, hown⟩ := h.dispatch ho hp
    have hclear : t.pend.get src = false := by rw [hpend, BySource.get_set_same]
    have hnone : NoneRaised s t := .of_pend_cleared hpend
    rcases hown with hneeds | hfree
    · obtain ⟨u, hu, hfree, hnone'⟩ := (h.of_exec ht).free
      rw [hneeds.settlingCost_eq]
      exact ⟨u, .dispatch ht hu, hfree, hnone' src hclear, hnone.trans hnone'⟩
    · exact ⟨t, (Settles.dispatch (n := 0) ht .rest).mono (settlingCost_pos src), hfree, hclear, hnone⟩

/-- Clearing one source after the other raises none of those cleared before. -/
theorem State.Live.clear_all (srcs : List Source) {s : State} (h : s.Live) (ho : s.owner = .none) :
    ∃ t, Settles (srcs.map settlingCost).sum s t ∧ t.owner = .none ∧ (∀ src ∈ srcs, t.pend.get src = false) ∧
      NoneRaised s t := by
  induction srcs generalizing s with
  | nil => exact ⟨s, .rest, ho, nofun, fun _ => id⟩
  | cons src srcs ih =>
    obtain ⟨t, hst, hfree, hclear, hnone⟩ := h.clear ho src
    obtain ⟨u, htu, hfree', hclear', hnone'⟩ := ih (hst.live h) hfree
    exact ⟨u, hst.trans htu, hfree', List.forall_mem_cons.mpr ⟨hnone' src hclear, hclear'⟩, hnone.trans hnone'⟩

/-- The sources that are not a trigger's completion; with the front-end free no other can be pending. -/
def startingSources : List Source := [.pc, .ft, .st, .bt, .dt]

/-- With the front-end free and those sources clear, the block is at rest (R306). -/
theorem State.Live.goodEnd {s : State} (h : s.Live) (ho : s.owner = .none)
    (hclear : ∀ src ∈ startingSources, s.pend.get src = false) : s.GoodEnd where
  fault := h.fault
  pend src := by
    cases src with
    | bc => exact h.inv.done_not_pending ho .bat
    | dc => exact h.inv.done_not_pending ho .depth
    | pc | ft | st | bt | dt => exact hclear _ (by decide)
  fst := h.inv.idle_of_owner_ne (by simp [ho])
  owner := ho

/-- Settles O59: two labels free the front-end, and eleven more clear the five sources that can then be pending. -/
theorem aGoodEndIsAlwaysReachable : Obligations.AGoodEndIsAlwaysReachable := by
  intro s hinv hf
  have hs : s.Live := ⟨hinv, hf⟩
  obtain ⟨u, hsu, hfree, -⟩ := hs.free
  obtain ⟨t, hut, hfree', hclear, -⟩ := (hsu.live hs).clear_all startingSources hfree
  have hst : Settles 13 s t := hsu.trans hut
  obtain ⟨is, hlen, his, hrun⟩ := hst.run
  exact ⟨is, t, hlen, his, hrun, (hst.live hs).goodEnd hfree' hclear⟩

end Sys2Proof.Machine
end
